-- ==== Sys2Proof/Word.lean ====
section
/-! DEFINITION. The widths SSEQ's registers and operands have (00_scope.md R10, R11). Every quantity is unsigned. -/

namespace Sys2Proof

/-- A host register or CMD word, 32 bits (R32, R110). -/
abbrev Word := BitVec 32

/-- A byte on the bus, or an 8-bit register field (R110). -/
abbrev Byte := BitVec 8

/-- A measurement word, 16 bits (R88). -/
abbrev Half := BitVec 16

end Sys2Proof
end

