-- ==== Sys2Proof/Config.lean ====
section
/-! DEFINITION. The implementation parameters of 00_scope.md R8 and 20_memory.md R82, as one record.
Every value the machine uses is an opaque constant: no proof can see it (assumption log 5). -/

namespace Sys2Proof

/-- `PORT_W`, the width of the bus port identifier (R8; fixed as the spec decides it, log 6). -/
abbrev portW : Nat := 4

/-- `PIN_W`, the width of a GPIO pin number (R8; log 6). -/
abbrev pinW : Nat := 8

/-- A bus port identifier. -/
abbrev Port := BitVec portW

/-- A GPIO pin number. -/
abbrev Pin := BitVec pinW

/-- The parameter set of R8, with `SSEQ_BASE` of R82. -/
structure Params where
  /-- `SENSOR_ADDR` -/
  sensorAddr : BitVec 7
  /-- `CMD_TRIG_T` -/
  cmdTrigT : Byte
  /-- `CMD_TRIG_RH` -/
  cmdTrigRh : Byte
  /-- `CMD_READ_UREG` -/
  cmdReadUreg : Byte
  /-- `CMD_WRITE_UREG` -/
  cmdWriteUreg : Byte
  /-- `CMD_SOFT_RESET` -/
  cmdSoftReset : Byte
  /-- `T_CONV_MS` -/
  tConvMs : Nat
  /-- `T_TXN_MS` -/
  tTxnMs : Nat
  /-- `BUS_CLK_HZ` -/
  busClkHz : Nat
  /-- `T_RESET_GRACE_MS`: informative, no step reads it (R347). -/
  tResetGraceMs : Nat
  /-- `SSEQ_BASE / 32`: the base is 32-byte aligned (R82), so the record holds its multiple. -/
  baseIndex : Nat
  deriving DecidableEq, Repr

/-- `SSEQ_BASE` (R82). -/
def Params.sseqBase (p : Params) : Nat := 32 * p.baseIndex

/-! The values of this implementation: OPEN in the spec (R8, R82), so without a body here. -/

opaque Config.sensorAddr : BitVec 7
opaque Config.cmdTrigT : Byte
opaque Config.cmdTrigRh : Byte
opaque Config.cmdReadUreg : Byte
opaque Config.cmdWriteUreg : Byte
opaque Config.cmdSoftReset : Byte
opaque Config.tConvMs : Nat
opaque Config.tTxnMs : Nat
opaque Config.busClkHz : Nat
opaque Config.tResetGraceMs : Nat
opaque Config.baseIndex : Nat

/-- The configuration record the machine runs with (R3). -/
def Config.params : Params where
  sensorAddr := Config.sensorAddr
  cmdTrigT := Config.cmdTrigT
  cmdTrigRh := Config.cmdTrigRh
  cmdReadUreg := Config.cmdReadUreg
  cmdWriteUreg := Config.cmdWriteUreg
  cmdSoftReset := Config.cmdSoftReset
  tConvMs := Config.tConvMs
  tTxnMs := Config.tTxnMs
  busClkHz := Config.busClkHz
  tResetGraceMs := Config.tResetGraceMs
  baseIndex := Config.baseIndex

/-- The defaults R8 lists (the source's figures, and the general-knowledge values the spec marks as such).
For tests of the link tables of 95_test_vectors.md only: the machine never uses them, and no statement may. -/
def Params.usual : Params where
  sensorAddr := 0x40#7
  cmdTrigT := 0xF3#8
  cmdTrigRh := 0xF5#8
  cmdReadUreg := 0xE7#8
  cmdWriteUreg := 0xE6#8
  cmdSoftReset := 0xFE#8
  tConvMs := 50
  tTxnMs := 1000
  busClkHz := 100000
  tResetGraceMs := 15
  baseIndex := 0

end Sys2Proof
end

