-- ==== Sys2Proof/Syntax.lean ====
section
/-! DEFINITION. What SSEQ's three encoded formats (30_encoding.md R110) and the host program statements (R140, R141)
are made of: host operations, link primitives, host accesses and statements. No meaning stands here. -/

namespace Sys2Proof

/-- The host operations, by name only (R112). `CUR_OP` selects one of them (R57). -/
inductive Op where
  | init
  | softReset
  | readUreg
  | writeUreg
  | getResolution
  | setResolution
  | measureT
  | measureRh
  | crcCheck
  deriving DecidableEq, Repr

/-- A decoded CMD word, one constructor per row of spec/opcode_table.json (R112, R114). The argument bits an
operation ignores are kept (`ign`), because the whole word is latched in `CMDL` and read back (R114, R36; log 8). -/
inductive Instr where
  /-- INIT; `ign` is CMD[31:8]. -/
  | init (ign : BitVec 24)
  /-- SOFT_RESET; `ign` is CMD[31:8]. -/
  | softReset (ign : BitVec 24)
  /-- READ_UREG; `ign` is CMD[31:8]. -/
  | readUreg (ign : BitVec 24)
  /-- WRITE_UREG; `value` is CMD[15:8], `ign` is CMD[31:16]. -/
  | writeUreg (value : Byte) (ign : BitVec 16)
  /-- GET_RESOLUTION; `ign` is CMD[31:8]. -/
  | getResolution (ign : BitVec 24)
  /-- SET_RESOLUTION; `resolution` is CMD[15:8], `ign` is CMD[31:16]. -/
  | setResolution (resolution : Byte) (ign : BitVec 16)
  /-- MEASURE_T; `ign` is CMD[31:8]. -/
  | measureT (ign : BitVec 24)
  /-- MEASURE_RH; `ign` is CMD[31:8]. -/
  | measureRh (ign : BitVec 24)
  /-- CRC_CHECK; `value` is CMD[31:16], `crc` is CMD[15:8]. -/
  | crcCheck (value : Half) (crc : Byte)
  deriving DecidableEq, Repr

/-- The KIND field of a link primitive (R120). -/
inductive PrimKind where
  | start
  | write
  | read
  | stop
  deriving DecidableEq, Repr

/-- A link primitive, the three fields of the 11-bit word (R120). -/
structure Prim where
  kind : PrimKind
  /-- ACK_CHECK of a WRITE, LAST of a READ. -/
  flag : Bool
  data : Byte
  deriving DecidableEq, Repr

/-- A link: the primitives of one bus transaction, in order (R120). -/
abbrev Link := List Prim

/-- A platform address as the host writes it: `SSEQ_BASE + off`, the form R82 and R140 state every access in, or a
number. What address it is depends on `SSEQ_BASE` (`HostAddr.value`; log 25). -/
inductive HostAddr where
  | sseqBase (off : Nat)
  | number (addr : Nat)
  deriving DecidableEq, Repr

/-- A host access: a platform address, a size in bytes and, for a write, the value (R12, R82, R83). An access the port
does not admit can be written down; the machine refuses it. -/
inductive Access where
  | read (addr : HostAddr) (size : Nat)
  | write (addr : HostAddr) (size : Nat) (v : Word)
  deriving DecidableEq, Repr

/-- The six named registers of the window (R32, R140). -/
inductive Reg where
  | cfg
  | cmd
  | status
  | raw
  | rxbuf
  | ureg
  deriving DecidableEq, Repr

/-- A statement of a host program (R140) or one of its pseudo-instructions (R141). Operands are numbers as a
programmer writes them; whether they fit is WellFormed's check. -/
inductive Stmt where
  | wr (r : Reg) (imm : Word)
  | rd (r : Reg)
  /-- `WAIT_DONE`, a host loop; `polls` is how often it reads STATUS in the run at hand (log 18). -/
  | waitDone (polls : Nat)
  | comment (text : String)
  | init
  | softReset
  | readUreg
  | writeUreg (v : Nat)
  | getResolution
  | setResolution (r : Nat)
  | measureT
  | measureRh
  | crcCheck (d c : Nat)
  | setCfg (port sda scl sdaPu sclPu : Nat)
  | clrStat
  deriving DecidableEq, Repr

end Sys2Proof
end

