-- ==== Sys2Proof/WellFormed.lean ====
section
/-! DEFINITION. Which terms of Syntax are well formed. A term of `Instr` needs no check: its operands have the
widths of their fields (R114), and ignored bits never cause an error (R115). The checks are on link primitives (R121),
on links (R123) and on the operands of host program statements (R141). -/

namespace Sys2Proof

/-- One of the five primitive values SSEQ emits (R121, R122): START and STOP with FLAG and DATA zero, WRITE with
ACK_CHECK, READ with DATA zero. -/
def Prim.wf (q : Prim) : Bool :=
  match q.kind with
  | .start => !q.flag && q.data == 0#8
  | .write => q.flag
  | .read => q.data == 0#8
  | .stop => !q.flag && q.data == 0#8

/-- The primitives after the reads began: `RA` until the last, which is `RN`, then `P` and nothing more (R123, R165). -/
def Link.readTail : Link → Bool
  | [q, p] => q.kind == .read && q.flag && p.kind == .stop
  | q :: rest => q.kind == .read && !q.flag && Link.readTail rest
  | [] => false

/-- Written bytes up to `P` (R123). -/
def Link.writeTail : Link → Bool
  | [p] => p.kind == .stop
  | q :: rest => q.kind == .write && Link.writeTail rest
  | [] => false

/-- The shape every link SSEQ emits has (R123): `S`, one address byte, then writes or reads, then `P`, with no
repeated START, all of primitives of R121. -/
def Link.wf (l : Link) : Bool :=
  l.all Prim.wf &&
  match l with
  | s :: a :: rest => s.kind == .start && a.kind == .write && (Link.writeTail rest || Link.readTail rest)
  | _ => false

/-- The operands of a statement fit their fields (R141); one that does not fit is an assembly error. -/
def Stmt.wf : Stmt → Bool
  | .wr _ _ => true
  | .rd _ => true
  | .waitDone _ => true
  | .comment _ => true
  | .init => true
  | .softReset => true
  | .readUreg => true
  | .writeUreg v => v < 0x100
  | .getResolution => true
  | .setResolution r => r < 0x100
  | .measureT => true
  | .measureRh => true
  | .crcCheck d c => d < 0x10000 && c < 0x100
  | .setCfg port sda scl sdaPu sclPu => port < 0x10 && sda < 0x100 && scl < 0x100 && sdaPu < 2 && sclPu < 2
  | .clrStat => true

end Sys2Proof
end

