-- ==== Sys2Proof/Decode.lean ====
section
/-! DEFINITION. The CMD format (30_encoding.md R111 to R117): the decoder, total on every 32-bit word and on any
bytes, and after it the encoder written from the same tables; then the LINK format (R120, R121). -/

namespace Sys2Proof

/-! ### The decoder -/

/-- Why a word is RESERVED (R113). The machine treats every reserved word alike (R153). -/
inductive Reserved where
  /-- RSV, CMD[7:4], is not zero. -/
  | rsvNotZero
  /-- OP is 0x0 or in 0xA .. 0xF. -/
  | opReserved
  /-- Not four bytes: every CMD write is one complete 32-bit command (R118). Only `decodeBytes` answers this. -/
  | notOneWord
  deriving DecidableEq, Repr

/-- CMD.OP (R111). -/
def fieldOp (w : Word) : BitVec 4 := w.extractLsb' 0 4

/-- CMD.RSV (R111). -/
def fieldRsv (w : Word) : BitVec 4 := w.extractLsb' 4 4

/-- CMD.ARG_LO (R111). -/
def fieldArgLo (w : Word) : Byte := w.extractLsb' 8 8

/-- CMD.ARG_HI (R111). -/
def fieldArgHi (w : Word) : Half := w.extractLsb' 16 16

/-- CMD.ARG = ARG_HI : ARG_LO (R111, R35). -/
def fieldArg (w : Word) : BitVec 24 := w.extractLsb' 8 24

/-- The operation an OP value selects (R112), or none for the reserved values. -/
def Op.ofCode (c : BitVec 4) : Option Op :=
  match c.toNat with
  | 0x1 => some .init
  | 0x2 => some .softReset
  | 0x3 => some .readUreg
  | 0x4 => some .writeUreg
  | 0x5 => some .getResolution
  | 0x6 => some .setResolution
  | 0x7 => some .measureT
  | 0x8 => some .measureRh
  | 0x9 => some .crcCheck
  | _ => none

/-- The operands of operation `o` in the word `w` (R114). -/
def Instr.ofFields (o : Op) (w : Word) : Instr :=
  match o with
  | .init => .init (fieldArg w)
  | .softReset => .softReset (fieldArg w)
  | .readUreg => .readUreg (fieldArg w)
  | .writeUreg => .writeUreg (fieldArgLo w) (fieldArgHi w)
  | .getResolution => .getResolution (fieldArg w)
  | .setResolution => .setResolution (fieldArgLo w) (fieldArgHi w)
  | .measureT => .measureT (fieldArg w)
  | .measureRh => .measureRh (fieldArg w)
  | .crcCheck => .crcCheck (fieldArgHi w) (fieldArgLo w)

/-- `Decode` of R116: RSV first, then OP. -/
def decode (w : Word) : Except Reserved Instr :=
  if fieldRsv w = 0#4 then
    match Op.ofCode (fieldOp w) with
    | some o => .ok (Instr.ofFields o w)
    | none => .error .opReserved
  else .error .rsvNotZero

/-- Byte lane `k` of a 32-bit register, bits [8k+7 : 8k] (R87). -/
def lane (w : Word) (k : Nat) : Byte := w.extractLsb' (8 * k) 8

/-- The four byte lanes, lane 0 first (R87). -/
def lanes (w : Word) : List Byte := [lane w 0, lane w 1, lane w 2, lane w 3]

/-- The word whose lanes are the four bytes (R87). -/
def ofLanes (b0 b1 b2 b3 : Byte) : Word := (b3 ++ b2 ++ b1 ++ b0 : BitVec (8 + 8 + 8 + 8))

/-- The decoder on any bytes: a command is exactly one word (R110, R118). -/
def decodeBytes : List Byte → Except Reserved Instr
  | [b0, b1, b2, b3] => decode (ofLanes b0 b1 b2 b3)
  | _ => .error .notOneWord

/-- What the decoder reads from the low `nbits` bits of `w`, every higher bit being zero. -/
def decodeTableWord (nbits w : Nat) : Option Instr :=
  match decodeBytes (lanes (BitVec.ofNat 32 (w % 2 ^ nbits))) with
  | .ok i => some i
  | .error _ => none

/-! ### The encoder -/

/-- The operation a decoded word stands for. -/
def Instr.op : Instr → Op
  | .init _ => .init
  | .softReset _ => .softReset
  | .readUreg _ => .readUreg
  | .writeUreg _ _ => .writeUreg
  | .getResolution _ => .getResolution
  | .setResolution _ _ => .setResolution
  | .measureT _ => .measureT
  | .measureRh _ => .measureRh
  | .crcCheck _ _ => .crcCheck

/-- The OP code of an operation (R112). -/
def Op.code : Op → BitVec 4
  | .init => 0x1#4
  | .softReset => 0x2#4
  | .readUreg => 0x3#4
  | .writeUreg => 0x4#4
  | .getResolution => 0x5#4
  | .setResolution => 0x6#4
  | .measureT => 0x7#4
  | .measureRh => 0x8#4
  | .crcCheck => 0x9#4

/-- A CMD word from a 24-bit argument and an operation: `ARG : 0b0000 : OP` (R111). -/
def cmdWord (arg : BitVec 24) (o : Op) : Word := (arg ++ 0x0#4 ++ o.code : BitVec (24 + 4 + 4))

/-- A CMD word from its two arguments: `ARG_HI : ARG_LO : 0b0000 : OP` (R111). -/
def cmdWord2 (hi : Half) (lo : Byte) (o : Op) : Word := cmdWord (hi ++ lo : BitVec (16 + 8)) o

/-- The CMD word of an instruction (R111, R112, R114). -/
def encode : Instr → Word
  | .init ign => cmdWord ign .init
  | .softReset ign => cmdWord ign .softReset
  | .readUreg ign => cmdWord ign .readUreg
  | .writeUreg value ign => cmdWord2 ign value .writeUreg
  | .getResolution ign => cmdWord ign .getResolution
  | .setResolution resolution ign => cmdWord2 ign resolution .setResolution
  | .measureT ign => cmdWord ign .measureT
  | .measureRh ign => cmdWord ign .measureRh
  | .crcCheck value crc => cmdWord2 value crc .crcCheck

/-! ### Link primitives -/

/-- The KIND code (R120). -/
def PrimKind.code : PrimKind → BitVec 2
  | .start => 0b00#2
  | .write => 0b01#2
  | .read => 0b10#2
  | .stop => 0b11#2

/-- The kind a KIND code stands for (R120). -/
def PrimKind.ofCode (c : BitVec 2) : PrimKind :=
  match c.toNat with
  | 0 => .start
  | 1 => .write
  | 2 => .read
  | _ => .stop

/-- The 11-bit word of a primitive: KIND[10:9], FLAG[8], DATA[7:0] (R120). -/
def Prim.encode (q : Prim) : BitVec 11 := (q.kind.code ++ BitVec.ofBool q.flag ++ q.data : BitVec (2 + 1 + 8))

/-- The primitive an 11-bit word stands for (R120): total, every word is one. -/
def Prim.decode (v : BitVec 11) : Prim :=
  { kind := PrimKind.ofCode (v.extractLsb' 9 2), flag := v.getLsbD 8, data := v.extractLsb' 0 8 }

end Sys2Proof
end

