-- ==== Sys2Proof/Machine/State.lean ====
section
/-! DEFINITION. The state of SSEQ as plain data: every register and latch of 10_state.md sections 2 and 3, and the
model's own fields (the schedule, the request numbers, what the host read). Every DESIGN CHOICE is in notes/assumptions. -/

namespace Sys2Proof.Machine

/-! ### The parts of the state -/

/-- The fields of CFG (R33). Reserved bits read 0 and are not stored. -/
structure Cfg where
  sdaPin : Pin
  sclPin : Pin
  sdaPu : Bool
  sclPu : Bool
  port : Port
  deriving DecidableEq, Repr

/-- The fields of RAW (R48). -/
structure Raw where
  word : Half
  stat : BitVec 2
  deriving DecidableEq, Repr

/-- The fields of RXBUF (R50). -/
structure Rxbuf where
  b0 : Byte
  b1 : Byte
  b2 : Byte
  count : BitVec 2
  deriving DecidableEq, Repr

/-- The sequencer phase (R58, R137). -/
inductive Phase where
  | idle
  | configure
  | install
  | txn1
  | waitConv
  | txn2
  | txn3
  deriving DecidableEq, Repr

/-- The error codes SSEQ produces (R131). -/
inductive ErrCode where
  | ok
  | config
  | install
  | notFound
  | invalidArg
  | fail
  | invalidState
  | timeout
  deriving DecidableEq, Repr

/-- The outcome of a transport response (R91). -/
inductive TxOutcome where
  | ok
  | invalidArg
  | fail
  | invalidState
  | timeout
  deriving DecidableEq, Repr

/-- The mode of the Configure request: a constant (R90, R191). -/
inductive BusMode where
  | controller
  deriving DecidableEq, Repr

/-- A request to the transport or to the delay timer (R60, R90). -/
inductive Request where
  | configure (port : Port) (mode : BusMode) (sdaPin sclPin : Pin) (sdaPullup sclPullup : Bool) (clockHz timeoutMs : Nat)
  | install (port : Port) (timeoutMs : Nat)
  | txn (port : Port) (link : Link) (timeoutMs : Nat)
  | delay (ms : Nat)
  deriving DecidableEq, Repr

/-- A pending request with the sequence number it was issued under (R60, R341; log 3). -/
structure Pending where
  tag : Nat
  req : Request
  deriving DecidableEq, Repr

/-- One step of an agent outside the sequencer, or of the reset input (R171). -/
inductive Event where
  /-- The host makes one access (R171 item 1). -/
  | host (a : Access)
  /-- The transport answers the request numbered `tag`: a 3-bit outcome code and the bytes read, both draws (R92, R130). -/
  | transport (tag : Nat) (code : BitVec 3) (rx : List Byte)
  /-- The delay timer answers ELAPSED to the request numbered `tag` (R244). -/
  | elapsed (tag : Nat)
  /-- SSEQ reset (R340). -/
  | reset
  deriving DecidableEq, Repr

/-- A response after normalisation (R166). -/
inductive Reply where
  | outcome (o : TxOutcome) (rx : List Byte)
  | elapsed
  deriving DecidableEq, Repr

/-! ### The state -/

/-- The state of the machine. STATUS.BUSY, STATUS.PHASE and STATUS.ACTIVE_PORT are views of `phase` and `activePort`
(R38, R46, R47); CUR_OP and CUR_ARG are views of `cmdl` (R56). -/
structure State where
  /-- CFG (R33). -/
  cfg : Cfg
  /-- CMDL, the command latch (R36, R56). -/
  cmdl : Word
  /-- STATUS.DONE (R39). -/
  done : Bool
  /-- STATUS.INIT_DONE (R40). -/
  initDone : Bool
  /-- STATUS.CRC_CHECKED (R41). -/
  crcChecked : Bool
  /-- STATUS.CRC_OK (R42). -/
  crcOk : Bool
  /-- STATUS.DROP (R44). -/
  drop : Bool
  /-- STATUS.ERR (R43). -/
  err : ErrCode
  /-- STATUS.LAST_OP (R45). -/
  lastOp : BitVec 4
  /-- RAW (R48). -/
  raw : Raw
  /-- RXBUF (R50). -/
  rxbuf : Rxbuf
  /-- UREG.RD (R52). -/
  uregRd : Byte
  /-- UREG.WR (R52). -/
  uregWr : Byte
  /-- UREG.RES (R52). -/
  uregRes : Byte
  /-- PHASE (R58). -/
  phase : Phase
  /-- ACTIVE_PORT (R59). -/
  activePort : Port
  /-- PEND (R60). -/
  pend : Option Pending
  /-- CFG_SNAP (R61). -/
  cfgSnap : Cfg
  /-- NEWV (R61). -/
  newv : Byte
  /-- The model's own: the sequence number of the next request (R341; log 3). -/
  nextTag : Nat
  /-- The model's own: the schedule, the events to come, oldest first (log 1). -/
  inputs : List Event
  /-- The model's own: the values the host's admitted reads returned, newest first (log 10). -/
  hostReads : List Word
  deriving DecidableEq, Repr

/-- CFG after reset (R64). -/
def Cfg.zero : Cfg := { sdaPin := 0#8, sclPin := 0#8, sdaPu := false, sclPu := false, port := 0#4 }

/-- RAW after reset, and the sentinel of a failed measurement (R64, R248). -/
def Raw.zero : Raw := { word := 0#16, stat := 0#2 }

/-- RXBUF after reset, and after a failed read (R64, R51). -/
def Rxbuf.zero : Rxbuf := { b0 := 0#8, b1 := 0#8, b2 := 0#8, count := 0#2 }

/-- The machine right after SSEQ reset (R64, R340). The last three fields are the model's own (log 20). -/
def State.reset : State where
  cfg := Cfg.zero
  cmdl := 0#32
  done := false
  initDone := false
  crcChecked := false
  crcOk := false
  drop := false
  err := .ok
  lastOp := 0#4
  raw := Raw.zero
  rxbuf := Rxbuf.zero
  uregRd := 0#8
  uregWr := 0#8
  uregRes := 0#8
  phase := .idle
  activePort := 0#4
  pend := none
  cfgSnap := Cfg.zero
  newv := 0#8
  nextTag := 0
  inputs := []
  hostReads := []

/-! ### How a step can stop -/

/-- The machine's faults. The spec gives SSEQ none (R303): both stand for states that no run reaches, and a stop there
is safe (log 11). -/
inductive Fault where
  /-- Raised by a response when (CUR_OP, PHASE) names no continuation of an operation rule (R159). Safe. -/
  | noContinuation
  /-- Raised by the TXN_2 continuation when a normalised OK answer has not the operation's byte count, which R166 rules
  out for the request the operation issues. Safe. -/
  | answerShape
  deriving DecidableEq, Repr

/-- The machine's refusals: the agent has no such step. -/
inductive Refusal where
  /-- Raised by an arm of `exec` for an operation without a meaning; no arm does so. Safe. -/
  | notModelled (mnemonic : String)
  /-- Raised by a host access the port does not admit: not 32 bits, not a multiple of 4, or outside 0x00 .. 0x1C (R83). Safe. -/
  | accessNotAdmitted
  /-- Raised by an answer to the pending request from the agent that does not own it (R158; log 4). Safe. -/
  | responderNotOwner
  deriving DecidableEq, Repr

/-- What one step answers. -/
abbrev Result := Host.Outcome State Fault Refusal

end Sys2Proof.Machine
end

