-- ==== Sys2Proof/Machine/Crc.lean ====
section
/-! DEFINITION. The CRC-8 validator (44_crc.md R270) and the reference generator (R271). Both are pure functions. -/

namespace Sys2Proof.Machine

/-- The polynomial x^8+x^5+x^4+1 left-aligned over 24 bits (R9, R270). -/
def crcDivisor : BitVec 24 := 0x988000#24

/-- `n` iterations of R270's loop that end with the test of bit 8: the next bit tested is bit `n + 7`. -/
def crcDivide : Nat → BitVec 24 → BitVec 24 → BitVec 24
  | 0, row, _ => row
  | n + 1, row, divisor =>
    crcDivide n (if row.getLsbD (n + 8) then row ^^^ divisor else row) (divisor >>> 1)

/-- The remainder after the 16 iterations, bit 23 first and bit 8 last (R270, R274). -/
def crcRemainder (value : Half) (crc : Byte) : BitVec 24 := crcDivide 16 (value ++ crc : BitVec (16 + 8)) crcDivisor

/-- `CrcValid` (R270). -/
def crcValid (value : Half) (crc : Byte) : Bool := crcRemainder value crc == 0#24

/-- `n` of the eight shifts `Crc8` makes for each byte (R271). -/
def crc8Shift : Nat → Byte → Byte
  | 0, c => c
  | n + 1, c => crc8Shift n (if c.getLsbD 7 then (c <<< 1) ^^^ 0x31#8 else c <<< 1)

/-- `Crc8` over the two bytes of the value, the high byte first (R271). -/
def crc8 (value : Half) : Byte :=
  crc8Shift 8 (crc8Shift 8 (0x00#8 ^^^ value.extractLsb' 8 8) ^^^ value.extractLsb' 0 8)

end Sys2Proof.Machine
end

