-- ==== Sys2Proof/Machine/Links.lean ====
section
/-! DEFINITION. The framing of every bus transaction (40_sequencer_core.md R160 to R165), over the parameter record. -/

namespace Sys2Proof.Machine

/-- `S` (R121). -/
def primS : Prim := { kind := .start, flag := false, data := 0x00#8 }

/-- `W(b)`: the target must acknowledge (R121, R164). -/
def primW (b : Byte) : Prim := { kind := .write, flag := true, data := b }

/-- `RA`: a read byte the controller acknowledges (R121, R165). -/
def primRA : Prim := { kind := .read, flag := false, data := 0x00#8 }

/-- `RN`: the last read byte, which the controller does not acknowledge (R121, R165). -/
def primRN : Prim := { kind := .read, flag := true, data := 0x00#8 }

/-- `P` (R121). -/
def primP : Prim := { kind := .stop, flag := false, data := 0x00#8 }

/-- The address byte for writing, `AW` (R125; log 13). -/
def addrWrite (p : Params) : Byte := (p.sensorAddr ++ 0#1 : BitVec (7 + 1))

/-- The address byte for reading, `AR` (R125; log 13). -/
def addrRead (p : Params) : Byte := (p.sensorAddr ++ 1#1 : BitVec (7 + 1))

/-- `WriteLink` (R160). -/
def writeLink (p : Params) (bytes : List Byte) : Link := primS :: primW (addrWrite p) :: (bytes.map primW ++ [primP])

/-- `ReadLink` for `n + 1` bytes (R161). -/
def readLink (p : Params) (n : Nat) : Link := primS :: primW (addrRead p) :: (List.replicate n primRA ++ [primRN, primP])

/-- PROBE (R162). -/
def linkProbe (p : Params) : Link := writeLink p []

/-- RESET (R162). -/
def linkReset (p : Params) : Link := writeLink p [p.cmdSoftReset]

/-- RCMD (R162). -/
def linkRcmd (p : Params) : Link := writeLink p [p.cmdReadUreg]

/-- RD1, the 1-byte read (R161, R162). -/
def linkRd1 (p : Params) : Link := readLink p 0

/-- WREG(v) (R162). -/
def linkWreg (v : Byte) (p : Params) : Link := writeLink p [p.cmdWriteUreg, v]

/-- TRIG(CMD_TRIG_T) (R162, R240). -/
def linkTrigT (p : Params) : Link := writeLink p [p.cmdTrigT]

/-- TRIG(CMD_TRIG_RH) (R162, R241). -/
def linkTrigRh (p : Params) : Link := writeLink p [p.cmdTrigRh]

/-- RD3, the 3-byte read (R161, R162). -/
def linkRd3 (p : Params) : Link := readLink p 2

/-- `Reads`, the number of read primitives of a link (R166, R162). -/
def linkReads (l : Link) : Nat := (l.filter (fun q => q.kind == .read)).length

end Sys2Proof.Machine
end

