-- ==== Sys2Proof/Machine/Flags.lean ====
section
/-! DEFINITION. The STATUS flags (10_state.md R37 to R45, R62): SSEQ has no arithmetic condition codes. -/

namespace Sys2Proof.Machine

/-- STATUS.BUSY: 1 exactly when PHASE is not IDLE (R38). -/
def State.busy (s : State) : Bool :=
  match s.phase with
  | .idle => false
  | .configure | .install | .txn1 | .waitConv | .txn2 | .txn3 => true

/-- A host write of STATUS: DONE and DROP are cleared where 1 is written, every other bit is ignored (R37). -/
def State.writeStatus (v : Word) (s : State) : State :=
  { s with done := s.done && !v.getLsbD 1, drop := s.drop && !v.getLsbD 5 }

/-- A CMD write that arrives while BUSY sets DROP and does nothing else (R44, R150). -/
def State.setDrop (s : State) : State := { s with drop := true }

/-- CRC_CHECKED is set and CRC_OK takes the validator's result in the same step (R41, R42). -/
def State.setCrc (valid : Bool) (s : State) : State := { s with crcChecked := true, crcOk := valid }

end Sys2Proof.Machine
end

