-- ==== Sys2Proof/Machine/Operands.lean ====
section
/-! DEFINITION. The words the host reads and writes, made of the state's fields (10_state.md R33, R35 to R37, R48, R50, R52),
the operand views of the command latch (R56, R114), and the code tables (R130, R131, R137). -/

namespace Sys2Proof.Machine

/-! ### Code tables -/

/-- The outcome a 3-bit code stands for; a code outside 0 .. 4 is no outcome (R130). -/
def TxOutcome.ofCode (c : BitVec 3) : Option TxOutcome :=
  match c.toNat with
  | 0 => some .ok
  | 1 => some .invalidArg
  | 2 => some .fail
  | 3 => some .invalidState
  | 4 => some .timeout
  | _ => none

/-- The code of an outcome (R130). -/
def TxOutcome.code : TxOutcome → BitVec 3
  | .ok => 0#3
  | .invalidArg => 1#3
  | .fail => 2#3
  | .invalidState => 3#3
  | .timeout => 4#3

/-- The code of an error (R131). -/
def ErrCode.code : ErrCode → BitVec 4
  | .ok => 0x0#4
  | .config => 0x1#4
  | .install => 0x2#4
  | .notFound => 0x3#4
  | .invalidArg => 0x4#4
  | .fail => 0x5#4
  | .invalidState => 0x6#4
  | .timeout => 0x7#4

/-- The code of a phase (R137). -/
def Phase.code : Phase → BitVec 3
  | .idle => 0#3
  | .configure => 1#3
  | .install => 2#3
  | .txn1 => 3#3
  | .waitConv => 4#3
  | .txn2 => 5#3
  | .txn3 => 6#3

/-! ### Views of the command latch -/

/-- CUR_OP = CMDL[3:0] (R56), as the operation it selects (R57), if it selects one. -/
def State.curOp (s : State) : Option Op := Op.ofCode (fieldOp s.cmdl)

/-- CUR_ARG = CMDL[31:8] (R56). -/
def State.curArg (s : State) : BitVec 24 := fieldArg s.cmdl

/-! ### Register words -/

/-- CFG as the host reads it (R33). -/
def Cfg.word (c : Cfg) : Word :=
  (0#8 ++ c.port ++ 0#2 ++ BitVec.ofBool c.sclPu ++ BitVec.ofBool c.sdaPu ++ c.sclPin ++ c.sdaPin :
    BitVec (8 + 4 + 2 + 1 + 1 + 8 + 8))

/-- CFG after a host write of `v`: the RW fields, reserved bits ignored (R33). -/
def Cfg.ofWord (v : Word) : Cfg where
  sdaPin := v.extractLsb' 0 8
  sclPin := v.extractLsb' 8 8
  sdaPu := v.getLsbD 16
  sclPu := v.getLsbD 17
  port := v.extractLsb' 20 4

/-- STATUS as the host reads it (R37); BUSY, PHASE and ACTIVE_PORT are mirrors (R38, R46, R47). -/
def State.statusWord (s : State) : Word :=
  (0#4 ++ s.activePort ++ 0#1 ++ s.phase.code ++ s.lastOp ++ 0#4 ++ s.err.code ++ 0#2 ++
      BitVec.ofBool s.drop ++ BitVec.ofBool s.crcOk ++ BitVec.ofBool s.crcChecked ++
      BitVec.ofBool s.initDone ++ BitVec.ofBool s.done ++ BitVec.ofBool s.busy :
    BitVec (4 + 4 + 1 + 3 + 4 + 4 + 4 + 2 + 1 + 1 + 1 + 1 + 1 + 1))

/-- RAW as the host reads it (R48). -/
def Raw.toWord (r : Raw) : Word := (0#14 ++ r.stat ++ r.word : BitVec (14 + 2 + 16))

/-- RXBUF as the host reads it (R50). -/
def Rxbuf.toWord (r : Rxbuf) : Word := (0#6 ++ r.count ++ r.b2 ++ r.b1 ++ r.b0 : BitVec (6 + 2 + 8 + 8 + 8))

/-- UREG as the host reads it (R52). -/
def State.uregWord (s : State) : Word := (0#8 ++ s.uregRes ++ s.uregWr ++ s.uregRd : BitVec (8 + 8 + 8 + 8))

/-! ### Received data -/

/-- RXBUF after a user-register read that answered OK: COUNT = 1, B0 the byte (R51, R210). -/
def Rxbuf.ofOne (b : Byte) : Rxbuf := { b0 := b, b1 := 0#8, b2 := 0#8, count := 1#2 }

/-- RXBUF after a measurement read that answered OK: the bytes in bus order, COUNT = 3 (R51, R242). -/
def Rxbuf.ofThree (msb lsb crc : Byte) : Rxbuf := { b0 := msb, b1 := lsb, b2 := crc, count := 3#2 }

/-- The measurement word `MSB : LSB` (R88). -/
def measureWord (msb lsb : Byte) : Half := (msb ++ lsb : BitVec (8 + 8))

/-- RAW on a good read: the word with its two status bits masked, and those two bits (R245). -/
def Raw.ofWord (w : Half) : Raw := { word := w &&& 0xFFFC#16, stat := w.extractLsb' 0 2 }

/-! ### The user register's masks (R129) -/

/-- `RES_MASK`, the resolution bits 7 and 0 (R9, R129). -/
def resMask : Byte := 0x81#8

/-- `KEEP_MASK`, the preserved bits 6:1 (R9, R129). -/
def keepMask : Byte := 0x7E#8

/-- The masking law of SET_RESOLUTION (R224). -/
def mergeResolution (cur resolution : Byte) : Byte := (cur &&& keepMask) ||| (resolution &&& resMask)

end Sys2Proof.Machine
end

