-- ==== Sys2Proof/Machine/Ops.lean ====
section
/-! DEFINITION. What every host operation shares (40_sequencer_core.md): acceptance, the gate, issuing a request,
completion, the normalisation of a response and the mapping of outcomes. `complete` takes the place of taking an exception
(60_exceptions.md R310), `accept` that of returning from one (R311). -/

namespace Sys2Proof.Machine

/-! ### Completion, and the acceptance of the next command -/

/-- `Complete(err)`: exactly these fields (R157, R310). -/
def complete (e : ErrCode) (s : State) : State := { s with err := e, done := true, phase := .idle, pend := none }

/-- The writes of acceptance, for every accepted word (R151, R311). -/
def accept (w : Word) (s : State) : State :=
  { s with cmdl := w, lastOp := fieldOp w, done := false, err := .ok, crcChecked := false, crcOk := false }

/-- `HostWriteCMD` for a word whose start part is `start`: dropped while BUSY, else accepted and started (R150, R151, R155). -/
def command (w : Word) (start : State → State) (s : State) : Result :=
  .next (if s.busy then s.setDrop else start (accept w s))

/-- `HostWriteCMD` for a bus operation: the gate of R154 stands between acceptance and start. -/
def busCommand (w : Word) (start : State → State) : State → Result :=
  command w fun s => if s.initDone then start s else complete .invalidState s

/-- `HostWriteCMD` for a reserved word (R153). -/
def reservedCommand (w : Word) : State → Result := command w (complete .invalidArg)

/-! ### Requests -/

/-- `Issue(req)` and the request's phase (R12, R60, R155). The request takes the next sequence number (R341; log 3). -/
def issue (r : Request) (ph : Phase) (s : State) : State :=
  { s with pend := some { tag := s.nextTag, req := r }, nextTag := s.nextTag + 1, phase := ph }

/-- A link on ACTIVE_PORT with the transaction timeout (R163). -/
def txnRequest (s : State) (link : Params → Link) : Request :=
  .txn s.activePort (link Config.params) Config.params.tTxnMs

/-- `Issue(Txn(ACTIVE_PORT, link, T_TXN_MS))` (R163). -/
def issueTxn (link : Params → Link) (ph : Phase) (s : State) : State := issue (txnRequest s link) ph s

/-- The Configure request of the snapshot (R190, R191). -/
def configureRequest (c : Cfg) : Request :=
  .configure c.port .controller c.sdaPin c.sclPin c.sdaPu c.sclPu Config.params.busClkHz Config.params.tTxnMs

/-- The Install request (R192). -/
def installRequest (p : Port) : Request := .install p Config.params.tTxnMs

/-- The conversion wait (R242, R244). -/
def delayRequest : Request := .delay Config.params.tConvMs

/-! ### Responses -/

/-- How many bytes an OK answer to the request must have; none where the rule does not count them (R166). -/
def Request.reads : Request → Option Nat
  | .txn _ link _ => some (linkReads link)
  | .configure .. => none
  | .install .. => none
  | .delay _ => none

/-- `Normalise` for a transport response: the outcome, and the bytes of an OK answer (R166). -/
def normalise (r : Request) (code : BitVec 3) (rx : List Byte) : TxOutcome × List Byte :=
  match TxOutcome.ofCode code with
  | none => (.fail, [])
  | some .ok =>
    match r.reads with
    | some n => if rx.length = n then (.ok, rx) else (.fail, [])
    | none => (.ok, rx)
  | some .invalidArg => (.invalidArg, [])
  | some .fail => (.fail, [])
  | some .invalidState => (.invalidState, [])
  | some .timeout => (.timeout, [])

/-- `MapOutcome` (R168). -/
def mapOutcome : TxOutcome → ErrCode
  | .ok => .ok
  | .invalidArg => .invalidArg
  | .fail => .fail
  | .invalidState => .invalidState
  | .timeout => .timeout

/-- The common form of a continuation: on a non-OK outcome the operation writes its failure values and completes with
`e`; on OK it goes on (R167). -/
def onOutcome (o : TxOutcome) (failure : State → State) (e : ErrCode) (go : State → State) (s : State) : State :=
  match o with
  | .ok => go s
  | .invalidArg | .fail | .invalidState | .timeout => complete e (failure s)

end Sys2Proof.Machine
end

