-- ==== Sys2Proof/Machine/CrcCheck.lean ====
section
/-! DEFINITION. CRC_CHECK (44_crc.md R280 to R283): it completes in its accept step, so it has no continuation. -/

namespace Sys2Proof.Machine

/-- Start CRC_CHECK: the CRC flags, then completion with OK either way (R280, R281). -/
def startCrcCheck (value : Half) (crc : Byte) (s : State) : State := complete .ok (s.setCrc (crcValid value crc))

/-- CRC_CHECK: never gated (R280). -/
def execCrcCheck (value : Half) (crc : Byte) (s : State) : Result :=
  command (encode (.crcCheck value crc)) (startCrcCheck value crc) s

end Sys2Proof.Machine
end

