-- ==== Sys2Proof/Machine/Lifecycle.lean ====
section
/-! DEFINITION. INIT and SOFT_RESET (41_lifecycle.md). -/

namespace Sys2Proof.Machine

/-! ### INIT -/

/-- Start INIT (R190): the snapshot, the port, INIT_DONE cleared, the Configure request. -/
def startInit (s : State) : State :=
  issue (configureRequest s.cfg) .configure { s with cfgSnap := s.cfg, activePort := s.cfg.port, initDone := false }

/-- INIT: never gated (R190, R154). -/
def execInit (ign : BitVec 24) (s : State) : Result := command (encode (.init ign)) startInit s

/-- INIT's answer in CONFIGURE: any non-OK outcome is CONFIG (R192). -/
def initConfigured (o : TxOutcome) (s : State) : State :=
  onOutcome o id .config (fun s => issue (installRequest s.activePort) .install s) s

/-- INIT's answer in INSTALL: any non-OK outcome is INSTALL (R193). -/
def initInstalled (o : TxOutcome) (s : State) : State := onOutcome o id .install (issueTxn linkProbe .txn1) s

/-- INIT's answer to the probe: any non-OK outcome is NOT_FOUND (R194), OK sets INIT_DONE (R195). -/
def initProbed (o : TxOutcome) (s : State) : State :=
  onOutcome o id .notFound (fun s => complete .ok { s with initDone := true }) s

/-- INIT's continuations by phase (R192 to R195). -/
def continueInit (r : Reply) (s : State) : Result :=
  match s.phase, r with
  | .configure, .outcome o _ => .next (initConfigured o s)
  | .install, .outcome o _ => .next (initInstalled o s)
  | .txn1, .outcome o _ => .next (initProbed o s)
  | .idle, _ | .waitConv, _ | .txn2, _ | .txn3, _ => .fault .noContinuation
  | .configure, .elapsed | .install, .elapsed | .txn1, .elapsed => .fault .noContinuation

/-! ### SOFT_RESET -/

/-- Start SOFT_RESET (R200). -/
def startSoftReset (s : State) : State := issueTxn linkReset .txn1 s

/-- SOFT_RESET: gated (R200). -/
def execSoftReset (ign : BitVec 24) (s : State) : Result := busCommand (encode (.softReset ign)) startSoftReset s

/-- SOFT_RESET's continuation: it completes with the mapped outcome (R200). -/
def continueSoftReset (r : Reply) (s : State) : Result :=
  match s.phase, r with
  | .txn1, .outcome o _ => .next (complete (mapOutcome o) s)
  | .idle, _ | .configure, _ | .install, _ | .waitConv, _ | .txn2, _ | .txn3, _ => .fault .noContinuation
  | .txn1, .elapsed => .fault .noContinuation

end Sys2Proof.Machine
end

