-- ==== Sys2Proof/Machine/Measurement.lean ====
section
/-! DEFINITION. MEASURE_T and MEASURE_RH (43_measurement.md): trigger, fixed wait, 3-byte read, CRC, masking. -/

namespace Sys2Proof.Machine

/-- Start MEASURE: the trigger transaction (R242, R243). -/
def startMeasure (trig : Params → Link) (s : State) : State := issueTxn trig .txn1 s

/-- The failure values of a measurement: RAW is the sentinel 0 and RXBUF is 0 (R248). -/
def failMeasure (s : State) : State := { s with raw := Raw.zero, rxbuf := Rxbuf.zero }

/-- TXN_1: a failed trigger completes at once, a good one starts the wait (R242, R244, R250). -/
def measureTriggered (o : TxOutcome) (s : State) : State :=
  onOutcome o failMeasure (mapOutcome o) (issue delayRequest .waitConv) s

/-- WAIT_CONV: the read follows the wait (R242). -/
def measureWaited (s : State) : State := issueTxn linkRd3 .txn2 s

/-- A good read: RXBUF, the CRC flags over the unmasked word, RAW masked, and OK whatever the CRC says (R242, R245 to R247). -/
def measureTaken (msb lsb crc : Byte) (s : State) : State :=
  complete .ok
    { s.setCrc (crcValid (measureWord msb lsb) crc) with
      rxbuf := Rxbuf.ofThree msb lsb crc, raw := Raw.ofWord (measureWord msb lsb) }

/-- TXN_2: a failure completes with the failure values, a good answer is three bytes (R242, R248, R166). -/
def measureAnswered (o : TxOutcome) (rx : List Byte) (s : State) : Result :=
  match o, rx with
  | .ok, [msb, lsb, crc] => .next (measureTaken msb lsb crc s)
  | .ok, [] | .ok, [_] | .ok, [_, _] | .ok, _ :: _ :: _ :: _ :: _ => .fault .answerShape
  | .invalidArg, _ | .fail, _ | .invalidState, _ | .timeout, _ => .next (complete (mapOutcome o) (failMeasure s))

/-- The continuations of the measurement sequence by phase (R242). -/
def continueMeasure (r : Reply) (s : State) : Result :=
  match s.phase, r with
  | .txn1, .outcome o _ => .next (measureTriggered o s)
  | .waitConv, .elapsed => .next (measureWaited s)
  | .txn2, .outcome o rx => measureAnswered o rx s
  | .idle, _ | .configure, _ | .install, _ | .txn3, _ => .fault .noContinuation
  | .txn1, .elapsed | .waitConv, .outcome _ _ | .txn2, .elapsed => .fault .noContinuation

/-- MEASURE_T: the trigger is CMD_TRIG_T (R240). -/
def execMeasureT (ign : BitVec 24) (s : State) : Result :=
  busCommand (encode (.measureT ign)) (startMeasure linkTrigT) s

/-- MEASURE_RH: the trigger is CMD_TRIG_RH (R241). -/
def execMeasureRh (ign : BitVec 24) (s : State) : Result :=
  busCommand (encode (.measureRh ign)) (startMeasure linkTrigRh) s

/-- MEASURE_T's continuations (R240, R242). -/
def continueMeasureT (r : Reply) (s : State) : Result := continueMeasure r s

/-- MEASURE_RH's continuations (R241, R242). -/
def continueMeasureRh (r : Reply) (s : State) : Result := continueMeasure r s

end Sys2Proof.Machine
end

