-- ==== Sys2Proof/Machine/RegisterAccess.lean ====
section
/-! DEFINITION. READ_UREG, WRITE_UREG, GET_RESOLUTION and SET_RESOLUTION (42_register_access.md). -/

namespace Sys2Proof.Machine

/-! ### The shared read sequence (R210) -/

/-- The start of the read sequence: the read-user-register command (R210). -/
def startRead (s : State) : State := issueTxn linkRcmd .txn1 s

/-- The failure values of the read sequence: UREG.RD and RXBUF are 0 (R210). -/
def failRead (s : State) : State := { s with uregRd := 0x00#8, rxbuf := Rxbuf.zero }

/-- The effect of a good 1-byte read: UREG.RD and RXBUF (R210). -/
def takeRead (b : Byte) (s : State) : State := { s with uregRd := b, rxbuf := Rxbuf.ofOne b }

/-- TXN_1 of the read sequence, with the operation's failure values (R210). -/
def readCommanded (o : TxOutcome) (failure : State → State) (s : State) : State :=
  onOutcome o failure (mapOutcome o) (issueTxn linkRd1 .txn2) s

/-- TXN_2 of the read sequence: a failure completes; a good answer is one byte, and `go` follows (R210, R166). -/
def readAnswered (o : TxOutcome) (rx : List Byte) (failure : State → State) (go : Byte → State → State) (s : State) : Result :=
  match o, rx with
  | .ok, [b] => .next (go b s)
  | .ok, [] | .ok, _ :: _ :: _ => .fault .answerShape
  | .invalidArg, _ | .fail, _ | .invalidState, _ | .timeout, _ => .next (complete (mapOutcome o) (failure s))

/-! ### READ_UREG -/

/-- READ_UREG (R210). -/
def execReadUreg (ign : BitVec 24) (s : State) : Result := busCommand (encode (.readUreg ign)) startRead s

/-- READ_UREG's last step: the byte is UREG.RD and RXBUF.B0 (R210). -/
def readUregTaken (b : Byte) (s : State) : State := complete .ok (takeRead b s)

/-- READ_UREG's continuations (R210). -/
def continueReadUreg (r : Reply) (s : State) : Result :=
  match s.phase, r with
  | .txn1, .outcome o _ => .next (readCommanded o failRead s)
  | .txn2, .outcome o rx => readAnswered o rx failRead readUregTaken s
  | .idle, _ | .configure, _ | .install, _ | .waitConv, _ | .txn3, _ => .fault .noContinuation
  | .txn1, .elapsed | .txn2, .elapsed => .fault .noContinuation

/-! ### WRITE_UREG -/

/-- Start WRITE_UREG: UREG.WR is written at issue, the value goes out unmasked (R215, R217). -/
def startWriteUreg (value : Byte) (s : State) : State := issueTxn (linkWreg value) .txn1 { s with uregWr := value }

/-- WRITE_UREG (R215). -/
def execWriteUreg (value : Byte) (ign : BitVec 16) (s : State) : Result :=
  busCommand (encode (.writeUreg value ign)) (startWriteUreg value) s

/-- WRITE_UREG's continuation (R215). -/
def continueWriteUreg (r : Reply) (s : State) : Result :=
  match s.phase, r with
  | .txn1, .outcome o _ => .next (complete (mapOutcome o) s)
  | .idle, _ | .configure, _ | .install, _ | .waitConv, _ | .txn2, _ | .txn3, _ => .fault .noContinuation
  | .txn1, .elapsed => .fault .noContinuation

/-! ### GET_RESOLUTION -/

/-- GET_RESOLUTION (R219): the start is that of the read sequence. -/
def execGetResolution (ign : BitVec 24) (s : State) : Result := busCommand (encode (.getResolution ign)) startRead s

/-- GET_RESOLUTION's failure values: UREG.RES too (R219, R221). -/
def failResolution (s : State) : State := { failRead s with uregRes := 0x00#8 }

/-- GET_RESOLUTION's last step: UREG.RES keeps bits 7 and 0 in place (R219). -/
def resolutionTaken (b : Byte) (s : State) : State := complete .ok { takeRead b s with uregRes := b &&& resMask }

/-- GET_RESOLUTION's continuations (R219). -/
def continueGetResolution (r : Reply) (s : State) : Result :=
  match s.phase, r with
  | .txn1, .outcome o _ => .next (readCommanded o failResolution s)
  | .txn2, .outcome o rx => readAnswered o rx failResolution resolutionTaken s
  | .idle, _ | .configure, _ | .install, _ | .waitConv, _ | .txn3, _ => .fault .noContinuation
  | .txn1, .elapsed | .txn2, .elapsed => .fault .noContinuation

/-! ### SET_RESOLUTION -/

/-- SET_RESOLUTION (R223): the start is that of the read sequence; the operand is used in TXN_2, from the latch. -/
def execSetResolution (resolution : Byte) (ign : BitVec 16) (s : State) : Result :=
  busCommand (encode (.setResolution resolution ign)) startRead s

/-- SET_RESOLUTION's write-back of `v`: NEWV and UREG.WR, then the write, always issued (R223, R225, R228). -/
def writeBack (v : Byte) (s : State) : State := issueTxn (linkWreg v) .txn3 { s with newv := v, uregWr := v }

/-- SET_RESOLUTION after a good read: the byte read merged with the resolution in CMDL[15:8] (R223, R224). -/
def resolutionMerged (cur : Byte) (s : State) : State :=
  writeBack (mergeResolution cur (fieldArgLo s.cmdl)) (takeRead cur s)

/-- SET_RESOLUTION's continuations; a failed read issues no write (R223, R226). -/
def continueSetResolution (r : Reply) (s : State) : Result :=
  match s.phase, r with
  | .txn1, .outcome o _ => .next (readCommanded o failRead s)
  | .txn2, .outcome o rx => readAnswered o rx failRead resolutionMerged s
  | .txn3, .outcome o _ => .next (complete (mapOutcome o) s)
  | .idle, _ | .configure, _ | .install, _ | .waitConv, _ => .fault .noContinuation
  | .txn1, .elapsed | .txn2, .elapsed | .txn3, .elapsed => .fault .noContinuation

end Sys2Proof.Machine
end

