-- ==== Sys2Proof/Machine/Dispatch.lean ====
section
/-! DEFINITION. One arm per host operation: what a CMD write of it does, BUSY test, acceptance, gate and start part
(40_sequencer_core.md R150 to R155; log 9). The later phases are run by the answers (Sequencer.lean). -/

namespace Sys2Proof.Machine

def exec (i : Instr) (s : State) : Host.Outcome State Fault Refusal :=
  match i with
  | .init ign => Sys2Proof.Machine.execInit ign s
  | .softReset ign => Sys2Proof.Machine.execSoftReset ign s
  | .readUreg ign => Sys2Proof.Machine.execReadUreg ign s
  | .writeUreg value ign => Sys2Proof.Machine.execWriteUreg value ign s
  | .getResolution ign => Sys2Proof.Machine.execGetResolution ign s
  | .setResolution resolution ign => Sys2Proof.Machine.execSetResolution resolution ign s
  | .measureT ign => Sys2Proof.Machine.execMeasureT ign s
  | .measureRh ign => Sys2Proof.Machine.execMeasureRh ign s
  | .crcCheck value crc => Sys2Proof.Machine.execCrcCheck value crc s

end Sys2Proof.Machine
end

