-- ==== Sys2Proof/Machine/HostPort.lean ====
section
/-! DEFINITION. The host port: the register window, its one admitted access shape, reads and writes
(20_memory.md R82 to R87, 10_state.md R32 to R54). -/

namespace Sys2Proof.Machine

/-! ### Addresses -/

/-- The platform address of a window offset, `SSEQ_BASE + offset` (R82). -/
def hostAddress (p : Params) (off : Nat) : Nat := p.sseqBase + off

/-- The window offset of a platform address, if the address lies in the window (R80, R82). -/
def windowOffset (p : Params) (addr : Nat) : Option Nat :=
  if p.sseqBase ≤ addr ∧ addr < p.sseqBase + 0x20 then some (addr - p.sseqBase) else none

end Sys2Proof.Machine

namespace Sys2Proof

/-- The platform address an access names (R82). -/
def HostAddr.value (p : Params) : HostAddr → Nat
  | .sseqBase off => Machine.hostAddress p off
  | .number addr => addr

/-- The window offset an access reaches, if its address lies in the window (R80, R82): `windowOffset` of its value.
For `SSEQ_BASE + off` the base cancels, so it is written without it (log 25). -/
def HostAddr.offset (p : Params) : HostAddr → Option Nat
  | .sseqBase off => if off < 0x20 then some off else none
  | .number addr => Machine.windowOffset p addr

end Sys2Proof

namespace Sys2Proof.Machine

/-! ### The window -/

/-- The one access shape: 32 bits at a multiple of 4 in 0x00 .. 0x1C (R83). -/
def admitted (off size : Nat) : Bool := size == 4 && off % 4 == 0 && off < 0x20

/-- The byte offset of a named register (R32). -/
def regOffset : Reg → Nat
  | .cfg => 0x00
  | .cmd => 0x04
  | .status => 0x08
  | .raw => 0x0C
  | .rxbuf => 0x10
  | .ureg => 0x14

/-- The value a register of the window reads as (R33, R36, R37, R48, R50, R52); the reserved words read 0 (R54).
An offset that is no register's has no value. -/
def registerWord (s : State) (off : Nat) : Option Word :=
  match off with
  | 0x00 => some s.cfg.word
  | 0x04 => some s.cmdl
  | 0x08 => some s.statusWord
  | 0x0C => some s.raw.toWord
  | 0x10 => some s.rxbuf.toWord
  | 0x14 => some s.uregWord
  | 0x18 => some 0#32
  | 0x1C => some 0#32
  | _ => none

/-- The byte the window holds at a byte offset: lane `off % 4` of its register (R87). A view: no access is a byte wide. -/
def windowByte (s : State) (off : Nat) : Option Byte :=
  (registerWord s (off - off % 4)).map fun w => lane w (off % 4)

/-- `HostWriteCMD` (R150): the word is decoded, and runs as its operation or as a reserved word (R152, R153). -/
def hostWriteCmd (v : Word) (s : State) : Result :=
  match decode v with
  | .ok i => exec i s
  | .error _ => reservedCommand v s

/-- The side effects of an admitted write, by register (R84). -/
def registerWrite (off : Nat) (v : Word) (s : State) : Result :=
  match off with
  | 0x00 => .next { s with cfg := Cfg.ofWord v }
  | 0x04 => hostWriteCmd v s
  | 0x08 => .next (s.writeStatus v)
  | 0x0C => .next s
  | 0x10 => .next s
  | 0x14 => .next s
  | 0x18 => .next s
  | 0x1C => .next s
  | _ => .refused .accessNotAdmitted

/-- An admitted read: no side effect on SSEQ; the value goes to the host (R85; log 10). -/
def registerRead (off : Nat) (s : State) : Result :=
  match registerWord s off with
  | some w => .next { s with hostReads := w :: s.hostReads }
  | none => .refused .accessNotAdmitted

/-- One host access: its platform address selects the window offset, and the port admits its shape or not
(R82 to R85, R171). -/
def hostAccess (a : Access) (s : State) : Result :=
  match a with
  | .read addr size =>
    match addr.offset Config.params with
    | some off => if admitted off size then registerRead off s else .refused .accessNotAdmitted
    | none => .refused .accessNotAdmitted
  | .write addr size v =>
    match addr.offset Config.params with
    | some off => if admitted off size then registerWrite off v s else .refused .accessNotAdmitted
    | none => .refused .accessNotAdmitted

end Sys2Proof.Machine
end

