-- ==== Sys2Proof/Machine/Sequencer.lean ====
section
/-! DEFINITION. The sequencer's own step, the Respond step (40_sequencer_core.md R158), and the three kinds of SSEQ
step (R171) as what one event of the schedule does. -/

namespace Sys2Proof.Machine

/-- `Continue(CUR_OP, PHASE, r)`: the operation rule's continuation (R57, R158). CRC_CHECK has none (R280). -/
def continueOp (r : Reply) (s : State) : Result :=
  match s.curOp with
  | some .init => continueInit r s
  | some .softReset => continueSoftReset r s
  | some .readUreg => continueReadUreg r s
  | some .writeUreg => continueWriteUreg r s
  | some .getResolution => continueGetResolution r s
  | some .setResolution => continueSetResolution r s
  | some .measureT => continueMeasureT r s
  | some .measureRh => continueMeasureRh r s
  | some .crcCheck => .fault .noContinuation
  | none => .fault .noContinuation

/-- The pending request has been answered: PEND is NONE before the continuation runs (R158). -/
def clearPend (s : State) : State := { s with pend := none }

/-- The schedule after the event at hand. -/
def withInputs (rest : List Event) (s : State) : State := { s with inputs := rest }

/-- The delay timer owns a Delay; the transport owns the rest (R158). -/
def Request.isDelay : Request → Bool
  | .delay _ => true
  | .configure .. => false
  | .install .. => false
  | .txn .. => false

/-- The transport answers the request numbered `tag`. An answer that is not for the pending request is discarded
(R341; log 3); one for a Delay is not the transport's to give (R158; log 4). -/
def transportAnswer (tag : Nat) (code : BitVec 3) (rx : List Byte) (s : State) : Result :=
  match s.pend with
  | none => .next s
  | some p =>
    if p.tag = tag then
      if p.req.isDelay then .refused .responderNotOwner
      else continueOp (.outcome (normalise p.req code rx).1 (normalise p.req code rx).2) (clearPend s)
    else .next s

/-- The delay timer answers the request numbered `tag` with ELAPSED (R158, R166, R244). -/
def timerAnswer (tag : Nat) (s : State) : Result :=
  match s.pend with
  | none => .next s
  | some p =>
    if p.tag = tag then
      if p.req.isDelay then continueOp .elapsed (clearPend s)
      else .refused .responderNotOwner
    else .next s

/-- SSEQ reset: every piece of SSEQ state takes its reset value in one step; the schedule, the request numbering and
what the host has read are not SSEQ's (R340, R341; log 3). -/
def resetInput (s : State) : State :=
  { State.reset with nextTag := s.nextTag, inputs := s.inputs, hostReads := s.hostReads }

/-- What one event does (R171). -/
def handle (e : Event) (s : State) : Result :=
  match e with
  | .host a => hostAccess a s
  | .transport tag code rx => transportAnswer tag code rx s
  | .elapsed tag => timerAnswer tag s
  | .reset => .next (resetInput s)

/-- One step: the oldest event of the schedule happens. With no event nothing happens, for no step of SSEQ is
spontaneous (R171, R355; log 2). -/
def stepOnce (s : State) : Result :=
  match s.inputs with
  | [] => .next s
  | e :: rest => handle e (withInputs rest s)

/-- A CMD write of `w` placed as the next event, on a sequencer that is IDLE (log 7). -/
def placeCommand (w : Word) (s : State) : State :=
  { s with inputs := .host (.write (.sseqBase 0x04) 4 w) :: s.inputs, phase := .idle, pend := none }

end Sys2Proof.Machine
end

