-- ==== Sys2Proof/Machine/Step.lean ====
section
/-! DEFINITION. One step of the machine (40_sequencer_core.md R171). Everything it does stands in Sequencer.lean. -/

namespace Sys2Proof.Machine

/-- One step: the oldest event of the schedule happens. -/
def step (s : State) : Host.Outcome State Fault Refusal := stepOnce s

/-- `s` with the command word `w` as the very next command: SSEQ takes its instructions from the host's CMD writes
(R101), so the write stands first in the schedule and the sequencer is IDLE (log 7). -/
def State.withFetchWord (s : State) (nbits w : Nat) : State := placeCommand (BitVec.ofNat 32 (w % 2 ^ nbits)) s

end Sys2Proof.Machine
end

