-- ==== Sys2Proof/Machine/HostProgram.lean ====
section
/-! DEFINITION. The host accesses a statement of a host program makes (30_encoding.md R140, R141). A statement whose
operands do not fit is an assembly error and makes none (R141). -/

namespace Sys2Proof.Machine

/-- `WR <reg>, <imm32>` is `MemWrite(SSEQ_BASE + off(reg), 4, imm32)` (R140). -/
def writeReg (r : Reg) (imm : Word) : Access := .write (.sseqBase (regOffset r)) 4 imm

/-- `RD <reg>` is `MemRead(SSEQ_BASE + off(reg), 4)` (R140). -/
def readReg (r : Reg) : Access := .read (.sseqBase (regOffset r)) 4

/-- The CFG word of `SETCFG` (R141). -/
def setCfgWord (port sda scl sdaPu sclPu : Nat) : Word :=
  BitVec.ofNat 32 (port <<< 20 ||| sclPu <<< 17 ||| sdaPu <<< 16 ||| scl <<< 8 ||| sda)

/-- The host accesses of a statement whose operands fit (R140, R141). -/
def stmtAccesses : Stmt → List Access
  | .wr r imm => [writeReg r imm]
  | .rd r => [readReg r]
  | .waitDone polls => List.replicate polls (readReg .status)
  | .comment _ => []
  | .init => [writeReg .cmd 0x00000001#32]
  | .softReset => [writeReg .cmd 0x00000002#32]
  | .readUreg => [writeReg .cmd 0x00000003#32]
  | .writeUreg v => [writeReg .cmd (BitVec.ofNat 32 (v <<< 8 ||| 0x04))]
  | .getResolution => [writeReg .cmd 0x00000005#32]
  | .setResolution r => [writeReg .cmd (BitVec.ofNat 32 (r <<< 8 ||| 0x06))]
  | .measureT => [writeReg .cmd 0x00000007#32]
  | .measureRh => [writeReg .cmd 0x00000008#32]
  | .crcCheck d c => [writeReg .cmd (BitVec.ofNat 32 (d <<< 16 ||| c <<< 8 ||| 0x09))]
  | .setCfg port sda scl sdaPu sclPu => [writeReg .cfg (setCfgWord port sda scl sdaPu sclPu)]
  | .clrStat => [writeReg .status 0x00000022#32]

/-- The assembler: an operand that does not fit is an assembly error (R141). -/
def assemble (t : Stmt) : Option (List Access) := if t.wf then some (stmtAccesses t) else none

/-- The decoded operation a pseudo-instruction stands for (R141), if it is one of the nine. -/
def stmtInstr : Stmt → Option Instr
  | .init => some (.init 0#24)
  | .softReset => some (.softReset 0#24)
  | .readUreg => some (.readUreg 0#24)
  | .writeUreg v => some (.writeUreg (BitVec.ofNat 8 v) 0#16)
  | .getResolution => some (.getResolution 0#24)
  | .setResolution r => some (.setResolution (BitVec.ofNat 8 r) 0#16)
  | .measureT => some (.measureT 0#24)
  | .measureRh => some (.measureRh 0#24)
  | .crcCheck d c => some (.crcCheck (BitVec.ofNat 16 d) (BitVec.ofNat 8 c))
  | .wr _ _ | .rd _ | .waitDone _ | .comment _ | .setCfg _ _ _ _ _ | .clrStat => none

end Sys2Proof.Machine
end

