-- ==== Sys2Proof/Safety.lean ====
section
/-! DEFINITION. The terms claims are stated in: the invariant of the control position, how many answers an operation still
needs, and what it is for an event to be a host access at SSEQ_BASE + offset or to answer the pending request. -/

namespace Sys2Proof.Machine

/-- The one request the control position (CUR_OP, PHASE) `(o, ph)` waits for (R31, R58, R137 and the operation rules). -/
def expectedAt (o : Option Op) (ph : Phase) (s : State) : Option Request :=
  match o, ph with
  | some .init, .configure => some (configureRequest s.cfgSnap)
  | some .init, .install => some (installRequest s.activePort)
  | some .init, .txn1 => some (txnRequest s linkProbe)
  | some .softReset, .txn1 => some (txnRequest s linkReset)
  | some .readUreg, .txn1 => some (txnRequest s linkRcmd)
  | some .readUreg, .txn2 => some (txnRequest s linkRd1)
  | some .writeUreg, .txn1 => some (txnRequest s (linkWreg (fieldArgLo s.cmdl)))
  | some .getResolution, .txn1 => some (txnRequest s linkRcmd)
  | some .getResolution, .txn2 => some (txnRequest s linkRd1)
  | some .setResolution, .txn1 => some (txnRequest s linkRcmd)
  | some .setResolution, .txn2 => some (txnRequest s linkRd1)
  | some .setResolution, .txn3 => some (txnRequest s (linkWreg s.newv))
  | some .measureT, .txn1 => some (txnRequest s linkTrigT)
  | some .measureT, .waitConv => some delayRequest
  | some .measureT, .txn2 => some (txnRequest s linkRd3)
  | some .measureRh, .txn1 => some (txnRequest s linkTrigRh)
  | some .measureRh, .waitConv => some delayRequest
  | some .measureRh, .txn2 => some (txnRequest s linkRd3)
  | _, _ => none

/-- The one request the state waits for (R60). -/
def expectedRequest (s : State) : Option Request := expectedAt s.curOp s.phase s

/-- The invariant of the machine: every step keeps it, and it holds after reset. -/
structure State.Inv (s : State) : Prop where
  /-- PEND is the request of the control position; NONE where there is none (R58, R60). -/
  pendIsExpected : s.pend.map Pending.req = expectedRequest s
  /-- PEND is not NONE while PHASE is not IDLE (R60). -/
  busyIsPending : s.busy = true → s.pend.isSome = true
  /-- The pending request has an issued number (log 3). -/
  tagIssued : ∀ p, s.pend = some p → p.tag < s.nextTag
  /-- LAST_OP is CMDL.OP (R45, R56). -/
  lastOpLatched : s.lastOp = fieldOp s.cmdl
  /-- Only a word that decodes starts an operation (R113, R153). -/
  busyDecoded : s.busy = true → fieldRsv s.cmdl = 0#4
  /-- DONE, ERR and CRC_CHECKED are as acceptance left them until completion (R39, R41, R43). -/
  busyClean : s.busy = true → s.done = false ∧ s.err = .ok ∧ s.crcChecked = false
  /-- When CRC_CHECKED = 0, CRC_OK is 0 (R42). -/
  crcOkChecked : s.crcChecked = false → s.crcOk = false
  /-- Only INIT runs while INIT_DONE = 0 (R154), and INIT_DONE is 0 while INIT runs (R197). -/
  gateHeld : s.busy = true → (s.initDone = true ↔ s.curOp ≠ some .init)
  /-- ACTIVE_PORT is the snapshot's port (R59, R61, R163). -/
  portOfSnapshot : s.activePort = s.cfgSnap.port
  /-- UREG.WR shows NEWV while the write-back is pending (R225). -/
  writeBackShown : s.phase = .txn3 → s.uregWr = s.newv
  /-- RAW.WORD[1:0] is 0 (R49). -/
  rawMasked : s.raw.word &&& 0x0003#16 = 0#16
  /-- RXBUF holds 0, 1 or 3 bytes, and unused bytes are 0 (R50, R51). -/
  rxbufShape : s.rxbuf = Rxbuf.zero ∨ (∃ b, s.rxbuf = Rxbuf.ofOne b) ∨ ∃ a b c, s.rxbuf = Rxbuf.ofThree a b c
  /-- UREG.RES has no bit outside the resolution mask (R221). -/
  resMasked : s.uregRes &&& 0x7E#8 = 0#8

/-- How many answers the running operation needs if all are OK (R159, R162); 0 when none runs. -/
def answersLeft (s : State) : Nat :=
  match s.curOp, s.phase with
  | some .init, .configure => 3
  | some .init, .install => 2
  | some .init, .txn1 => 1
  | some .softReset, .txn1 => 1
  | some .writeUreg, .txn1 => 1
  | some .readUreg, .txn1 => 2
  | some .readUreg, .txn2 => 1
  | some .getResolution, .txn1 => 2
  | some .getResolution, .txn2 => 1
  | some .setResolution, .txn1 => 3
  | some .setResolution, .txn2 => 2
  | some .setResolution, .txn3 => 1
  | some .measureT, .txn1 => 3
  | some .measureT, .waitConv => 2
  | some .measureT, .txn2 => 1
  | some .measureRh, .txn1 => 3
  | some .measureRh, .waitConv => 2
  | some .measureRh, .txn2 => 1
  | _, _ => 0

/-- The bus operations, which the gate holds back until INIT has succeeded (R154). -/
def isBusOp : Op → Bool
  | .init => false
  | .softReset => true
  | .readUreg => true
  | .writeUreg => true
  | .getResolution => true
  | .setResolution => true
  | .measureT => true
  | .measureRh => true
  | .crcCheck => false

/-- The CMD write of `v` as a host program makes it (R140, R150). -/
def cmdWrite (v : Word) : Event := .host (.write (.sseqBase 0x04) 4 v)

/-- The event is a host read of `size` bytes at the platform address `SSEQ_BASE + off`, however it is written (R82). -/
def Event.Reads (e : Event) (off size : Nat) : Prop :=
  ∃ addr : HostAddr, e = .host (.read addr size) ∧ addr.value Config.params = hostAddress Config.params off

/-- The event is a host write of `v`, `size` bytes, at the platform address `SSEQ_BASE + off`, however it is written (R82). -/
def Event.Writes (e : Event) (off size : Nat) (v : Word) : Prop :=
  ∃ addr : HostAddr, e = .host (.write addr size v) ∧ addr.value Config.params = hostAddress Config.params off

/-- The schedule begins with such a read, and `rest` follows. -/
def HostReads (inputs : List Event) (off size : Nat) (rest : List Event) : Prop :=
  ∃ e, inputs = e :: rest ∧ e.Reads off size

/-- The schedule begins with such a write, and `rest` follows. -/
def HostWrites (inputs : List Event) (off size : Nat) (v : Word) (rest : List Event) : Prop :=
  ∃ e, inputs = e :: rest ∧ e.Writes off size v

/-- The request is owned by the transport (false) or by the delay timer (true), and the event is its owner's answer to
the request numbered `p.tag` (R158). -/
def Event.answers (e : Event) (p : Pending) : Bool :=
  match e with
  | .transport tag _ _ => tag == p.tag && !p.req.isDelay
  | .elapsed tag => tag == p.tag && p.req.isDelay
  | .host _ => false
  | .reset => false

/-- The ERR of a bus operation other than INIT whose transaction was answered with `code` and was not a good answer:
R166's normalisation and R168's mapping read together. -/
def answerErr (code : BitVec 3) : ErrCode :=
  match code.toNat with
  | 1 => .invalidArg
  | 3 => .invalidState
  | 4 => .timeout
  | _ => .fail

/-- The machine is in phase `ph` of operation `o`, and the next event is the transport's answer `code`, `rx` to the
pending request; `rest` is the schedule after it. -/
structure Answering (s : State) (o : Op) (ph : Phase) (code : BitVec 3) (rx : List Byte) (rest : List Event) : Prop where
  inv : s.Inv
  op : s.curOp = some o
  phase : s.phase = ph
  event : ∃ p, s.pend = some p ∧ s.inputs = .transport p.tag code rx :: rest

/-- The events that are not `reset` and not an answer to `p`: with only these to come, no operation ends (R355). -/
def Event.silentFor (e : Event) (p : Pending) : Bool :=
  match e with
  | .transport tag _ _ => tag != p.tag
  | .elapsed tag => tag != p.tag
  | .host _ => true
  | .reset => false

end Sys2Proof.Machine
end

