-- ==== Sys2Proof/Certificates/Slice0/Obligations.lean ====
section
/-! DEFINITION. The statements for the provers, from the numbered rules of spec/. Each docstring says what it states and
which rule of the spec it formalises; the list with its quotes is OBLIGATIONS.json. Where a statement gives a whole next
state, the schedule, the request numbers and the list of values read are the model's own fields (logs 1, 3 and 10). -/

open Sys2Proof Sys2Proof.Machine

/-- O1. For every instruction i of the nine host operations, with every operand and every ignored argument bit at every value, decode (encode i) is i. That the ignored argument bits are operands of the instruction is the model's choice (log 8). (From 30_encoding.md section 2 (R111, R112, R114, R116).) -/
def Obligations.DecodeOfEncodeIsTheInstruction : Prop :=
  ∀ i : Instr, decode (encode i) = .ok i

/-- O2. For every 32-bit word w that decodes to an instruction i, encode i is w: no bit of the word is lost, so the latch CMDL can be written from the instruction. It holds because the argument bits an operation ignores are operands of the instruction, which is the model's choice (log 8); by the spec's own Decode they are dropped. (From 30_encoding.md section 2 (R111, R112, R114, R116).) -/
def Obligations.EncodeOfDecodeIsTheWord : Prop :=
  ∀ (w : Word) (i : Instr), decode w = .ok i → encode i = w

/-- O3. For every word w: if w[7:4] is not 0 it is RESERVED; otherwise w[3:0] = 1 .. 9 selects the nine operations with operands w[15:8] and w[31:16] as the table says, and every other w[3:0] is RESERVED. (States R116.) -/
def Obligations.DecodeReadsTheFieldsOfTheWord : Prop :=
  ∀ w : Word,
    (w.extractLsb' 4 4 ≠ 0#4 → ∃ r, decode w = .error r) ∧
    (w.extractLsb' 4 4 = 0#4 →
      (w.extractLsb' 0 4 = 0x1#4 → ∃ ign, decode w = .ok (.init ign)) ∧
      (w.extractLsb' 0 4 = 0x2#4 → ∃ ign, decode w = .ok (.softReset ign)) ∧
      (w.extractLsb' 0 4 = 0x3#4 → ∃ ign, decode w = .ok (.readUreg ign)) ∧
      (w.extractLsb' 0 4 = 0x4#4 → ∃ ign, decode w = .ok (.writeUreg (w.extractLsb' 8 8) ign)) ∧
      (w.extractLsb' 0 4 = 0x5#4 → ∃ ign, decode w = .ok (.getResolution ign)) ∧
      (w.extractLsb' 0 4 = 0x6#4 → ∃ ign, decode w = .ok (.setResolution (w.extractLsb' 8 8) ign)) ∧
      (w.extractLsb' 0 4 = 0x7#4 → ∃ ign, decode w = .ok (.measureT ign)) ∧
      (w.extractLsb' 0 4 = 0x8#4 → ∃ ign, decode w = .ok (.measureRh ign)) ∧
      (w.extractLsb' 0 4 = 0x9#4 → decode w = .ok (.crcCheck (w.extractLsb' 16 16) (w.extractLsb' 8 8))) ∧
      (w.extractLsb' 0 4 = 0x0#4 ∨ 0xA ≤ (w.extractLsb' 0 4).toNat → ∃ r, decode w = .error r))

/-- O4. The words 0x00000001, 0x00000002, 0x00000003, 0x00003A04, 0x00000005, 0x00008106, 0xFFFFFF07, 0x00000008 and 0x683A7C09 decode to the nine operations, with the spec's operands 0x3A, 0x81 and 0x683A, 0x7C, and 0x00000000, 0x0000000A and 0x00000019 are reserved. That the argument bits an operation ignores are operands besides (0xFFFFFF of MEASURE_T) is the model's choice (log 8), and so are the names of the two reasons for a reserved word (log 23). (From 95_test_vectors.md section 2.1, 30_encoding.md section 2 (R112).) -/
def Obligations.SampleWordsDecodeAsTheSpecEncodesThem : Prop :=
  decode 0x00000001#32 = .ok (.init 0#24) ∧ decode 0x00000002#32 = .ok (.softReset 0#24) ∧
    decode 0x00000003#32 = .ok (.readUreg 0#24) ∧ decode 0x00003A04#32 = .ok (.writeUreg 0x3A#8 0#16) ∧
    decode 0x00000005#32 = .ok (.getResolution 0#24) ∧ decode 0x00008106#32 = .ok (.setResolution 0x81#8 0#16) ∧
    decode 0xFFFFFF07#32 = .ok (.measureT 0xFFFFFF#24) ∧ decode 0x00000008#32 = .ok (.measureRh 0#24) ∧
    decode 0x683A7C09#32 = .ok (.crcCheck 0x683A#16 0x7C#8) ∧ decode 0x00000000#32 = .error .opReserved ∧
    decode 0x0000000A#32 = .error .opReserved ∧ decode 0x00000019#32 = .error .rsvNotZero

/-- O5. A primitive's word has KIND in bits 10:9, FLAG in bit 8 and DATA in bits 7:0; decoding the word gives the primitive back, and every 11-bit word is the word of the primitive it decodes to. (From 30_encoding.md section 4 (R120).) -/
def Obligations.LinkPrimitiveWordsRoundTrip : Prop :=
  (∀ q : Prim, (q.encode.extractLsb' 9 2).toNat =
        (match q.kind with | .start => 0 | .write => 1 | .read => 2 | .stop => 3) ∧
      q.encode.getLsbD 8 = q.flag ∧ q.encode.extractLsb' 0 8 = q.data ∧ Prim.decode q.encode = q) ∧
    ∀ v : BitVec 11, (Prim.decode v).encode = v

/-- O6. For every parameter set, AW is (SENSOR_ADDR << 1) OR 0 and AR is (SENSOR_ADDR << 1) OR 1; with SENSOR_ADDR = 0x40 they are 0x80 and 0x81. The spec takes this layout from general knowledge (log 13). (From 30_encoding.md section 5 (R125).) -/
def Obligations.AddressBytesCarryAddressAndDirection : Prop :=
  ∀ p : Params,
    addrWrite p = (p.sensorAddr.setWidth 8 <<< 1 ||| 0x00#8) ∧ addrRead p = (p.sensorAddr.setWidth 8 <<< 1 ||| 0x01#8) ∧
    (p.sensorAddr = 0x40#7 → addrWrite p = 0x80#8 ∧ addrRead p = 0x81#8)

/-- O7. The seven links have the primitive words the table lists, for every SENSOR_ADDR and command byte, and 0, 1 or 3 read primitives; and whenever a step from a state that meets the invariant issues a transaction, its link is one of those the table gives to the operation in CUR_OP. (States R162.) -/
def Obligations.IssuedLinksAreTheSevenOfTheSpec : Prop :=
  (∀ (p : Params) (v : Byte),
      let W := fun b : Byte => 0x300#11 ||| b.setWidth 11
      (linkProbe p).map Prim.encode = [0x000#11, W (addrWrite p), 0x600#11] ∧
      (linkReset p).map Prim.encode = [0x000#11, W (addrWrite p), W p.cmdSoftReset, 0x600#11] ∧
      (linkRcmd p).map Prim.encode = [0x000#11, W (addrWrite p), W p.cmdReadUreg, 0x600#11] ∧
      (linkRd1 p).map Prim.encode = [0x000#11, W (addrRead p), 0x500#11, 0x600#11] ∧
      (linkWreg v p).map Prim.encode = [0x000#11, W (addrWrite p), W p.cmdWriteUreg, W v, 0x600#11] ∧
      (linkTrigT p).map Prim.encode = [0x000#11, W (addrWrite p), W p.cmdTrigT, 0x600#11] ∧
      (linkTrigRh p).map Prim.encode = [0x000#11, W (addrWrite p), W p.cmdTrigRh, 0x600#11] ∧
      (linkRd3 p).map Prim.encode = [0x000#11, W (addrRead p), 0x400#11, 0x400#11, 0x500#11, 0x600#11] ∧
      linkReads (linkProbe p) = 0 ∧ linkReads (linkReset p) = 0 ∧ linkReads (linkRcmd p) = 0 ∧
      linkReads (linkRd1 p) = 1 ∧ linkReads (linkWreg v p) = 0 ∧ linkReads (linkTrigT p) = 0 ∧
      linkReads (linkTrigRh p) = 0 ∧ linkReads (linkRd3 p) = 3) ∧
    ∀ (s t : State), s.Inv → step s = .next t → t.nextTag ≠ s.nextTag →
      ∀ (tag : Nat) (port : Port) (link : Link) (tmo : Nat), t.pend = some ⟨tag, .txn port link tmo⟩ →
        match t.curOp with
        | some .init => link = linkProbe Config.params
        | some .softReset => link = linkReset Config.params
        | some .readUreg => link = linkRcmd Config.params ∨ link = linkRd1 Config.params
        | some .writeUreg => ∃ v, link = linkWreg v Config.params
        | some .getResolution => link = linkRcmd Config.params ∨ link = linkRd1 Config.params
        | some .setResolution =>
          link = linkRcmd Config.params ∨ link = linkRd1 Config.params ∨ ∃ v, link = linkWreg v Config.params
        | some .measureT => link = linkTrigT Config.params ∨ link = linkRd3 Config.params
        | some .measureRh => link = linkTrigRh Config.params ∨ link = linkRd3 Config.params
        | some .crcCheck => False
        | none => False

/-- O8. Whenever a step from a state that meets the invariant issues a transaction, its link is S, W(AW), then only W(b), then P, or S, W(AR), then RA repeated and one RN, then P. There is no repeated START. (States R123.) -/
def Obligations.IssuedLinksHaveTheFramedShape : Prop :=
  ∀ (s t : State), s.Inv → step s = .next t → t.nextTag ≠ s.nextTag →
      ∀ (tag : Nat) (port : Port) (link : Link) (tmo : Nat), t.pend = some ⟨tag, .txn port link tmo⟩ →
        (∃ bytes : List Byte, link = primS :: primW (addrWrite Config.params) :: (bytes.map primW ++ [primP])) ∨
        (∃ n : Nat, link =
          primS :: primW (addrRead Config.params) :: (List.replicate n primRA ++ [primRN, primP]))

/-- O9. S, W(b), RA, RN and P have the words 0x000, 0x300 OR b, 0x400, 0x500 and 0x600, and every primitive of a link that a step issues from a state that meets the invariant is one of them; each of the five occurs in some link of the seven. (States R121.) -/
def Obligations.IssuedPrimitivesAreTheFiveOfTheSpec : Prop :=
  (primS.encode = 0x000#11 ∧ (∀ b : Byte, (primW b).encode = 0x300#11 ||| b.setWidth 11) ∧
      primRA.encode = 0x400#11 ∧ primRN.encode = 0x500#11 ∧ primP.encode = 0x600#11) ∧
    (∀ p : Params, primS ∈ linkRd3 p ∧ primW (addrRead p) ∈ linkRd3 p ∧ primRA ∈ linkRd3 p ∧ primRN ∈ linkRd3 p ∧
      primP ∈ linkRd3 p) ∧
    ∀ (s t : State), s.Inv → step s = .next t → t.nextTag ≠ s.nextTag →
      ∀ (tag : Nat) (port : Port) (link : Link) (tmo : Nat), t.pend = some ⟨tag, .txn port link tmo⟩ →
        ∀ q ∈ link, q = primS ∨ (∃ b, q = primW b) ∨ q = primRA ∨ q = primRN ∨ q = primP

/-- O10. Whenever a step from a state that meets the invariant issues a request: a Txn carries ACTIVE_PORT and T_TXN_MS, an Install ACTIVE_PORT and T_TXN_MS, a Configure CFG_SNAP's fields with the mode CONTROLLER, BUS_CLK_HZ and T_TXN_MS, where CFG_SNAP.PORT is ACTIVE_PORT, and a Delay T_CONV_MS. (From 40_sequencer_core.md section 3 (R163), 20_memory.md section 4 (R90), 41_lifecycle.md section 1 (R190 to R192), 43_measurement.md section 2 (R242, R244).) -/
def Obligations.TransactionsUseTheActivePortAndTimeout : Prop :=
  ∀ (s t : State), s.Inv → step s = .next t → t.nextTag ≠ s.nextTag → ∀ p, t.pend = some p →
      match p.req with
      | .txn port _ tmo => port = t.activePort ∧ tmo = Config.params.tTxnMs
      | .install port tmo => port = t.activePort ∧ tmo = Config.params.tTxnMs
      | .configure port mode sdaPin sclPin sdaPullup sclPullup clockHz timeoutMs =>
        port = t.cfgSnap.port ∧ t.activePort = t.cfgSnap.port ∧ mode = .controller ∧ sdaPin = t.cfgSnap.sdaPin ∧
          sclPin = t.cfgSnap.sclPin ∧ sdaPullup = t.cfgSnap.sdaPu ∧ sclPullup = t.cfgSnap.sclPu ∧
          clockHz = Config.params.busClkHz ∧ timeoutMs = Config.params.tTxnMs
      | .delay ms => ms = Config.params.tConvMs

/-- O11. For every state whose schedule begins with an admitted write of the word v to CMD, where v decodes to i, one step is exec of i on that state with the event taken off the schedule, and the word exec latches is v. The schedule is the model's own form of the host's accesses (log 1). (From 40_sequencer_core.md section 1 (R150 to R152), 20_memory.md section 8 (R101).) -/
def Obligations.StepRunsTheDecodedOperation : Prop :=
  ∀ (s : State) (v : Word) (rest : List Event) (i : Instr), HostWrites s.inputs 0x04 4 v rest →
      decode v = .ok i → step s = exec i { s with inputs := rest } ∧ encode i = v

/-- O12. For every state and word v written to CMD: while BUSY the word is dropped and DROP is set; else a reserved word completes INVALID_ARG, with INIT_DONE 0 or 1; else a bus operation with INIT_DONE = 0 completes INVALID_STATE; else the operation starts, which leaves SSEQ busy with ERR = OK, or for CRC_CHECK completes OK. (States R306.) -/
def Obligations.CommandChecksComeInOrder : Prop :=
  ∀ (s : State) (v : Word) (rest : List Event), HostWrites s.inputs 0x04 4 v rest →
      (s.busy = true → step s = .next { s with inputs := rest, drop := true }) ∧
      (s.busy = false → ∀ r, decode v = .error r →
        ∃ t, step s = .next t ∧ t.busy = false ∧ t.done = true ∧ t.err = .invalidArg) ∧
      (s.busy = false → s.initDone = false → ∀ i, decode v = .ok i →
        i.op ∈ [.softReset, .readUreg, .writeUreg, .getResolution, .setResolution, .measureT, .measureRh] →
        ∃ t, step s = .next t ∧ t.busy = false ∧ t.done = true ∧ t.err = .invalidState) ∧
      (s.busy = false → ∀ i, decode v = .ok i → (i.op = .init ∨ i.op = .crcCheck ∨ s.initDone = true) →
        ∃ t, step s = .next t ∧ t.err = .ok ∧
          (i.op = .crcCheck → t.busy = false ∧ t.done = true) ∧
          (i.op ≠ .crcCheck → t.busy = true ∧ t.done = false))

/-- O13. A word decodes exactly when its low nibble is 1 .. 9 and the next nibble 0. Every other word written to CMD while IDLE completes in that step with ERR = INVALID_ARG, whatever INIT_DONE is: it latches the word, issues no request and leaves RAW, RXBUF, UREG and everything else as they were. (States R153, R113.) -/
def Obligations.ReservedWordCompletesInvalidArg : Prop :=
  (∀ w : Word, (∃ i, decode w = .ok i) ↔
      (1 ≤ (w.extractLsb' 0 4).toNat ∧ (w.extractLsb' 0 4).toNat ≤ 9 ∧ w.extractLsb' 4 4 = 0#4)) ∧
    ∀ (s : State) (v : Word) (rest : List Event) (r : Reserved), HostWrites s.inputs 0x04 4 v rest →
      s.busy = false → decode v = .error r →
      step s = .next { s with
        inputs := rest, cmdl := v, lastOp := v.extractLsb' 0 4, done := true, err := .invalidArg,
        crcChecked := false, crcOk := false, phase := .idle, pend := none }

/-- O14. For every state that is IDLE with INIT_DONE = 0: each of the seven bus operations completes in its accept step with ERR = INVALID_STATE, issues no request and writes no result register (the whole next state is given); INIT starts and CRC_CHECK completes OK all the same. (States R154.) -/
def Obligations.GateCompletesBusOperationsInvalidState : Prop :=
  ∀ (i : Instr) (s : State), s.busy = false → s.initDone = false →
      (i.op ∈ [.softReset, .readUreg, .writeUreg, .getResolution, .setResolution, .measureT, .measureRh] →
        exec i s = .next { s with
          cmdl := encode i, lastOp := (encode i).extractLsb' 0 4, done := true, err := .invalidState,
          crcChecked := false, crcOk := false, phase := .idle, pend := none }) ∧
      (i.op = .init → ∃ t, exec i s = .next t ∧ t.busy = true ∧ t.err = .ok) ∧
      (i.op = .crcCheck → ∃ t, exec i s = .next t ∧ t.done = true ∧ t.err = .ok)

/-- O15. A CMD write of any word v while IDLE, reserved or not, writes LAST_OP with v[3:0] (and the latch with v). Every other step that answers a next state, completions included, leaves LAST_OP and the latch as they were, except SSEQ reset, which zeroes both. (States R45.) -/
def Obligations.AcceptedWordIsLatchedAndLastOpFollows : Prop :=
  ∀ (s t : State), step s = .next t →
      (∀ (v : Word) (rest : List Event), HostWrites s.inputs 0x04 4 v rest → s.busy = false →
        t.lastOp = v.extractLsb' 0 4 ∧ t.cmdl = v) ∧
      ((∀ (v : Word) (rest : List Event), HostWrites s.inputs 0x04 4 v rest → s.busy = true) →
        (∀ rest, s.inputs ≠ .reset :: rest) → t.lastOp = s.lastOp ∧ t.cmdl = s.cmdl) ∧
      (∀ rest, s.inputs = .reset :: rest → t.lastOp = 0#4 ∧ t.cmdl = 0#32)

/-- O16. For every state that is IDLE, with INIT_DONE 0 or 1 and every ignored argument: exec of INIT answers the state in which CFG_SNAP is CFG, ACTIVE_PORT is CFG.PORT, INIT_DONE is 0, the pending request is Configure with CFG's fields, mode CONTROLLER, BUS_CLK_HZ and T_TXN_MS, PHASE is CONFIGURE, and only the acceptance fields besides have changed. INIT's words are those with OP = 0x1 and RSV = 0. (States R190.) -/
def Obligations.InitStartSnapshotsAndConfigures : Prop :=
  (∀ (ign : BitVec 24) (s : State), s.busy = false →
      exec (.init ign) s = .next { s with
        cmdl := encode (.init ign), lastOp := 0x1#4, done := false, err := .ok, crcChecked := false, crcOk := false,
        cfgSnap := s.cfg, activePort := s.cfg.port, initDone := false, phase := .configure, nextTag := s.nextTag + 1,
        pend := some ⟨s.nextTag, .configure s.cfg.port .controller s.cfg.sdaPin s.cfg.sclPin s.cfg.sdaPu s.cfg.sclPu
          Config.params.busClkHz Config.params.tTxnMs⟩ }) ∧
    ∀ w : Word, (∃ ign, decode w = .ok (.init ign)) ↔ w.extractLsb' 0 8 = 0x01#8

/-- O17. For every state that meets the invariant, with INIT running and the pending request answered: in CONFIGURE code 0 issues Install on ACTIVE_PORT and any other code completes CONFIG; in INSTALL code 0 issues the PROBE transaction and any other code completes INSTALL; in TXN_1 an OK answer without bytes sets INIT_DONE and completes OK, and any other answer, TIMEOUT included, completes NOT_FOUND. An answer to Configure or Install is its code only. The whole next state is given each time. (States R192, R193, R194, R195.) -/
def Obligations.InitContinuesToConfigInstallNotFoundOrDone : Prop :=
  ∀ (s : State) (code : BitVec 3) (rx : List Byte) (rest : List Event),
      (Answering s .init .configure code [] rest →
        (code = 0#3 → step s = .next { s with
          inputs := rest, phase := .install, nextTag := s.nextTag + 1,
          pend := some ⟨s.nextTag, .install s.activePort Config.params.tTxnMs⟩ }) ∧
        (code ≠ 0#3 → step s = .next { s with
          inputs := rest, err := .config, done := true, phase := .idle, pend := none })) ∧
      (Answering s .init .install code [] rest →
        (code = 0#3 → step s = .next { s with
          inputs := rest, phase := .txn1, nextTag := s.nextTag + 1,
          pend := some ⟨s.nextTag, .txn s.activePort (linkProbe Config.params) Config.params.tTxnMs⟩ }) ∧
        (code ≠ 0#3 → step s = .next { s with
          inputs := rest, err := .install, done := true, phase := .idle, pend := none })) ∧
      (Answering s .init .txn1 code rx rest →
        (code = 0#3 ∧ rx = [] → step s = .next { s with
          inputs := rest, initDone := true, err := .ok, done := true, phase := .idle, pend := none }) ∧
        (¬ (code = 0#3 ∧ rx = []) → step s = .next { s with
          inputs := rest, err := .notFound, done := true, phase := .idle, pend := none }))

/-- O18. IDLE with INIT_DONE = 1, exec of SOFT_RESET issues the RESET link on ACTIVE_PORT in TXN_1 and changes only the acceptance fields besides. With INIT_DONE = 0 it completes INVALID_STATE. Its answer completes it: OK without bytes gives OK, anything else the mapped error. SOFT_RESET's words are those with OP = 0x2 and RSV = 0. (States R200.) -/
def Obligations.SoftResetSendsOneWriteAndReportsItsOutcome : Prop :=
  (∀ (ign : BitVec 24) (s : State), s.busy = false → s.initDone = true →
      exec (.softReset ign) s = .next { s with
        cmdl := encode (.softReset ign), lastOp := 0x2#4, done := false, err := .ok, crcChecked := false, crcOk := false,
        phase := .txn1, nextTag := s.nextTag + 1,
        pend := some ⟨s.nextTag, .txn s.activePort (linkReset Config.params) Config.params.tTxnMs⟩ }) ∧
    (∀ (ign : BitVec 24) (s : State), s.busy = false → s.initDone = false →
      ∃ t, exec (.softReset ign) s = .next t ∧ t.done = true ∧ t.err = .invalidState ∧ t.busy = false) ∧
    (∀ (s : State) (code : BitVec 3) (rx : List Byte) (rest : List Event), Answering s .softReset .txn1 code rx rest →
      step s = .next { s with
        inputs := rest, err := if code = 0#3 ∧ rx = [] then .ok else answerErr code, done := true, phase := .idle,
        pend := none }) ∧
    ∀ w : Word, (∃ ign, decode w = .ok (.softReset ign)) ↔ w.extractLsb' 0 8 = 0x02#8

/-- O19. IDLE with INIT_DONE = 1, exec of READ_UREG issues RCMD in TXN_1. In TXN_1 an OK answer issues RD1 in TXN_2. In TXN_2 an OK answer with one byte b completes OK with UREG.RD = b and RXBUF = 1 << 24 OR b. Any other answer in either phase completes with the mapped error, UREG.RD = 0 and RXBUF = 0. The whole next state is given each time. READ_UREG's words are those with OP = 0x3 and RSV = 0. (States R210.) -/
def Obligations.ReadUregReadsOneByte : Prop :=
  (∀ (ign : BitVec 24) (s : State), s.busy = false → s.initDone = true →
      exec (.readUreg ign) s = .next { s with
        cmdl := encode (.readUreg ign), lastOp := 0x3#4, done := false, err := .ok, crcChecked := false,
        crcOk := false, phase := .txn1, nextTag := s.nextTag + 1,
        pend := some ⟨s.nextTag, .txn s.activePort (linkRcmd Config.params) Config.params.tTxnMs⟩ }) ∧
    (∀ (s : State) (code : BitVec 3) (rx : List Byte) (rest : List Event), Answering s .readUreg .txn1 code rx rest →
      (code = 0#3 ∧ rx = [] → step s = .next { s with
        inputs := rest, phase := .txn2, nextTag := s.nextTag + 1,
        pend := some ⟨s.nextTag, .txn s.activePort (linkRd1 Config.params) Config.params.tTxnMs⟩ }) ∧
      (¬ (code = 0#3 ∧ rx = []) → step s = .next { s with
        inputs := rest, uregRd := 0x00#8, rxbuf := ⟨0#8, 0#8, 0#8, 0#2⟩, err := answerErr code, done := true,
        phase := .idle, pend := none })) ∧
    (∀ (s : State) (code : BitVec 3) (rx : List Byte) (rest : List Event), Answering s .readUreg .txn2 code rx rest →
      (∀ b, code = 0#3 ∧ rx = [b] → step s = .next { s with
        inputs := rest, uregRd := b, rxbuf := ⟨b, 0#8, 0#8, 1#2⟩, err := .ok, done := true, phase := .idle,
        pend := none }) ∧
      (¬ (code = 0#3 ∧ rx.length = 1) → step s = .next { s with
        inputs := rest, uregRd := 0x00#8, rxbuf := ⟨0#8, 0#8, 0#8, 0#2⟩, err := answerErr code, done := true,
        phase := .idle, pend := none })) ∧
    ∀ w : Word, (∃ ign, decode w = .ok (.readUreg ign)) ↔ w.extractLsb' 0 8 = 0x03#8

/-- O20. IDLE with INIT_DONE = 1, exec of WRITE_UREG value writes UREG.WR with value and issues WREG(value) in TXN_1, whatever the ignored bits CMD[31:16]. Its answer completes it: OK without bytes gives OK, anything else the mapped error, and UREG.WR stays. WRITE_UREG's words are those with OP = 0x4 and RSV = 0, and value is CMD[15:8]. (States R215.) -/
def Obligations.WriteUregSendsTheByteUnmasked : Prop :=
  (∀ (value : Byte) (ign : BitVec 16) (s : State), s.busy = false → s.initDone = true →
      exec (.writeUreg value ign) s = .next { s with
        cmdl := encode (.writeUreg value ign), lastOp := 0x4#4, done := false, err := .ok, crcChecked := false,
        crcOk := false, uregWr := value, phase := .txn1, nextTag := s.nextTag + 1,
        pend := some ⟨s.nextTag, .txn s.activePort (linkWreg value Config.params) Config.params.tTxnMs⟩ }) ∧
    (∀ (s : State) (code : BitVec 3) (rx : List Byte) (rest : List Event), Answering s .writeUreg .txn1 code rx rest →
      step s = .next { s with
        inputs := rest, err := if code = 0#3 ∧ rx = [] then .ok else answerErr code, done := true, phase := .idle,
        pend := none }) ∧
    ∀ (w : Word) (value : Byte), (∃ ign, decode w = .ok (.writeUreg value ign)) ↔
      w.extractLsb' 0 8 = 0x04#8 ∧ value = w.extractLsb' 8 8

/-- O21. IDLE with INIT_DONE = 1, exec of GET_RESOLUTION issues RCMD in TXN_1; an OK answer issues RD1 in TXN_2; an OK answer with one byte b completes OK with UREG.RD = b, UREG.RES = b AND 0x81 and RXBUF = 1 << 24 OR b. Any other answer in either phase completes with the mapped error and UREG.RD = UREG.RES = RXBUF = 0. GET_RESOLUTION's words are those with OP = 0x5 and RSV = 0. (States R219.) -/
def Obligations.GetResolutionMasksTheByteRead : Prop :=
  (∀ (ign : BitVec 24) (s : State), s.busy = false → s.initDone = true →
      exec (.getResolution ign) s = .next { s with
        cmdl := encode (.getResolution ign), lastOp := 0x5#4, done := false, err := .ok, crcChecked := false,
        crcOk := false, phase := .txn1, nextTag := s.nextTag + 1,
        pend := some ⟨s.nextTag, .txn s.activePort (linkRcmd Config.params) Config.params.tTxnMs⟩ }) ∧
    (∀ (s : State) (code : BitVec 3) (rx : List Byte) (rest : List Event),
      Answering s .getResolution .txn1 code rx rest →
      (code = 0#3 ∧ rx = [] → step s = .next { s with
        inputs := rest, phase := .txn2, nextTag := s.nextTag + 1,
        pend := some ⟨s.nextTag, .txn s.activePort (linkRd1 Config.params) Config.params.tTxnMs⟩ }) ∧
      (¬ (code = 0#3 ∧ rx = []) → step s = .next { s with
        inputs := rest, uregRd := 0x00#8, uregRes := 0x00#8, rxbuf := ⟨0#8, 0#8, 0#8, 0#2⟩, err := answerErr code,
        done := true, phase := .idle, pend := none })) ∧
    (∀ (s : State) (code : BitVec 3) (rx : List Byte) (rest : List Event),
      Answering s .getResolution .txn2 code rx rest →
      (∀ b, code = 0#3 ∧ rx = [b] → step s = .next { s with
        inputs := rest, uregRd := b, uregRes := b &&& 0x81#8, rxbuf := ⟨b, 0#8, 0#8, 1#2⟩, err := .ok, done := true,
        phase := .idle, pend := none }) ∧
      (¬ (code = 0#3 ∧ rx.length = 1) → step s = .next { s with
        inputs := rest, uregRd := 0x00#8, uregRes := 0x00#8, rxbuf := ⟨0#8, 0#8, 0#8, 0#2⟩, err := answerErr code,
        done := true, phase := .idle, pend := none })) ∧
    ∀ w : Word, (∃ ign, decode w = .ok (.getResolution ign)) ↔ w.extractLsb' 0 8 = 0x05#8

/-- O22. IDLE with INIT_DONE = 1, exec of SET_RESOLUTION issues RCMD in TXN_1; an OK answer issues RD1 in TXN_2; an OK answer with one byte cur sets UREG.RD = cur, RXBUF = 1 << 24 OR cur, NEWV = UREG.WR = (cur AND 0x7E) OR (CMDL[15:8] AND 0x81) and issues WREG(NEWV) in TXN_3, always; its answer completes with OK or the mapped error. Any other answer in TXN_1 or TXN_2 completes with the mapped error, UREG.RD = RXBUF = 0, and issues no write. SET_RESOLUTION's words are those with OP = 0x6 and RSV = 0, and resolution is CMD[15:8]. (States R223, R226.) -/
def Obligations.SetResolutionReadsMergesAndWritesBack : Prop :=
  (∀ (resolution : Byte) (ign : BitVec 16) (s : State), s.busy = false → s.initDone = true →
      exec (.setResolution resolution ign) s = .next { s with
        cmdl := encode (.setResolution resolution ign), lastOp := 0x6#4, done := false, err := .ok, crcChecked := false,
        crcOk := false, phase := .txn1, nextTag := s.nextTag + 1,
        pend := some ⟨s.nextTag, .txn s.activePort (linkRcmd Config.params) Config.params.tTxnMs⟩ }) ∧
    (∀ (s : State) (code : BitVec 3) (rx : List Byte) (rest : List Event),
      Answering s .setResolution .txn1 code rx rest →
      (code = 0#3 ∧ rx = [] → step s = .next { s with
        inputs := rest, phase := .txn2, nextTag := s.nextTag + 1,
        pend := some ⟨s.nextTag, .txn s.activePort (linkRd1 Config.params) Config.params.tTxnMs⟩ }) ∧
      (¬ (code = 0#3 ∧ rx = []) → step s = .next { s with
        inputs := rest, uregRd := 0x00#8, rxbuf := ⟨0#8, 0#8, 0#8, 0#2⟩, err := answerErr code, done := true,
        phase := .idle, pend := none })) ∧
    (∀ (s : State) (code : BitVec 3) (rx : List Byte) (rest : List Event),
      Answering s .setResolution .txn2 code rx rest →
      (∀ cur, code = 0#3 ∧ rx = [cur] →
        let v := (cur &&& 0x7E#8) ||| (s.cmdl.extractLsb' 8 8 &&& 0x81#8)
        step s = .next { s with
          inputs := rest, uregRd := cur, rxbuf := ⟨cur, 0#8, 0#8, 1#2⟩, newv := v, uregWr := v, phase := .txn3,
          nextTag := s.nextTag + 1,
          pend := some ⟨s.nextTag, .txn s.activePort (linkWreg v Config.params) Config.params.tTxnMs⟩ }) ∧
      (¬ (code = 0#3 ∧ rx.length = 1) → step s = .next { s with
        inputs := rest, uregRd := 0x00#8, rxbuf := ⟨0#8, 0#8, 0#8, 0#2⟩, err := answerErr code, done := true,
        phase := .idle, pend := none })) ∧
    (∀ (s : State) (code : BitVec 3) (rx : List Byte) (rest : List Event),
      Answering s .setResolution .txn3 code rx rest →
      step s = .next { s with
        inputs := rest, err := if code = 0#3 ∧ rx = [] then .ok else answerErr code, done := true, phase := .idle,
        pend := none }) ∧
    ∀ (w : Word) (r : Byte), (∃ ign, decode w = .ok (.setResolution r ign)) ↔
      w.extractLsb' 0 8 = 0x06#8 ∧ r = w.extractLsb' 8 8

/-- O23. For every byte read and every resolution byte, the value written back is (cur AND NOT 0x81) OR (resolution AND 0x81), equal to (cur AND 0x7E) OR (resolution AND 0x81); bit by bit, bits 7 and 0 are the resolution's and bits 6 to 1 are cur's, and two resolution bytes that agree in bits 7 and 0 give the same value. (States R224.) -/
def Obligations.MergedResolutionKeepsTheReservedBits : Prop :=
  ∀ cur resolution : Byte,
      mergeResolution cur resolution = (cur &&& ~~~0x81#8) ||| (resolution &&& 0x81#8) ∧
      mergeResolution cur resolution = (cur &&& 0x7E#8) ||| (resolution &&& 0x81#8) ∧
      (∀ k, k < 8 → (mergeResolution cur resolution).getLsbD k =
        if k = 7 ∨ k = 0 then resolution.getLsbD k else cur.getLsbD k) ∧
      ∀ other : Byte, other &&& 0x81#8 = resolution &&& 0x81#8 → mergeResolution cur other = mergeResolution cur resolution

/-- O24. IDLE with INIT_DONE = 1, exec of MEASURE_T (MEASURE_RH) issues TRIG(CMD_TRIG_T) (TRIG(CMD_TRIG_RH)) in TXN_1; an OK answer issues Delay(T_CONV_MS) in WAIT_CONV; ELAPSED issues RD3 in TXN_2; an OK answer msb, lsb, crc completes OK whatever the CRC, with RXBUF the three bytes, CRC_CHECKED = 1, CRC_OK = CrcValid(msb : lsb, crc), RAW.WORD = (msb : lsb) AND 0xFFFC and RAW.STAT = (msb : lsb)[1:0]. Any other transport answer in TXN_1 or TXN_2 completes with the mapped error, RAW = 0 and RXBUF = 0. (States R242, R245.) -/
def Obligations.MeasurementTriggersWaitsReadsAndChecks : Prop :=
  (∀ (ign : BitVec 24) (s : State), s.busy = false → s.initDone = true →
      exec (.measureT ign) s = .next { s with
        cmdl := encode (.measureT ign), lastOp := 0x7#4, done := false, err := .ok, crcChecked := false,
        crcOk := false, phase := .txn1, nextTag := s.nextTag + 1,
        pend := some ⟨s.nextTag, .txn s.activePort (linkTrigT Config.params) Config.params.tTxnMs⟩ } ∧
      exec (.measureRh ign) s = .next { s with
        cmdl := encode (.measureRh ign), lastOp := 0x8#4, done := false, err := .ok, crcChecked := false,
        crcOk := false, phase := .txn1, nextTag := s.nextTag + 1,
        pend := some ⟨s.nextTag, .txn s.activePort (linkTrigRh Config.params) Config.params.tTxnMs⟩ }) ∧
    (∀ (s : State) (o : Op) (code : BitVec 3) (rx : List Byte) (rest : List Event), o = .measureT ∨ o = .measureRh →
      Answering s o .txn1 code rx rest →
      (code = 0#3 ∧ rx = [] → step s = .next { s with
        inputs := rest, phase := .waitConv, nextTag := s.nextTag + 1,
        pend := some ⟨s.nextTag, .delay Config.params.tConvMs⟩ }) ∧
      (¬ (code = 0#3 ∧ rx = []) → step s = .next { s with
        inputs := rest, raw := ⟨0#16, 0#2⟩, rxbuf := ⟨0#8, 0#8, 0#8, 0#2⟩, err := answerErr code, done := true,
        phase := .idle, pend := none })) ∧
    (∀ (s : State) (o : Op) (p : Pending) (rest : List Event), o = .measureT ∨ o = .measureRh → s.Inv →
      s.curOp = some o → s.phase = .waitConv → s.pend = some p → s.inputs = .elapsed p.tag :: rest →
      step s = .next { s with
        inputs := rest, phase := .txn2, nextTag := s.nextTag + 1,
        pend := some ⟨s.nextTag, .txn s.activePort (linkRd3 Config.params) Config.params.tTxnMs⟩ }) ∧
    (∀ (s : State) (o : Op) (code : BitVec 3) (rx : List Byte) (rest : List Event), o = .measureT ∨ o = .measureRh →
      Answering s o .txn2 code rx rest →
      (∀ msb lsb crc, code = 0#3 ∧ rx = [msb, lsb, crc] → step s = .next { s with
        inputs := rest, rxbuf := ⟨msb, lsb, crc, 3#2⟩, crcChecked := true, crcOk := crcValid (msb ++ lsb) crc,
        raw := ⟨(msb ++ lsb : BitVec (8 + 8)) &&& 0xFFFC#16, (msb ++ lsb : BitVec (8 + 8)).extractLsb' 0 2⟩, err := .ok,
        done := true, phase := .idle, pend := none }) ∧
      (¬ (code = 0#3 ∧ rx.length = 3) → step s = .next { s with
        inputs := rest, raw := ⟨0#16, 0#2⟩, rxbuf := ⟨0#8, 0#8, 0#8, 0#2⟩, err := answerErr code, done := true,
        phase := .idle, pend := none }))

/-- O25. For every IDLE state, INIT_DONE 0 or 1, and every value and crc: exec of CRC_CHECK answers the state with CRC_CHECKED = 1, CRC_OK = CrcValid(value, crc), ERR = OK, DONE = 1, IDLE, no pending request, and only the acceptance fields besides changed. CRC_CHECK's words are those with OP = 0x9 and RSV = 0, value is CMD[31:16] and crc is CMD[15:8]. (States R280.) -/
def Obligations.CrcCheckCompletesInItsAcceptStep : Prop :=
  (∀ (value : Half) (crc : Byte) (s : State), s.busy = false →
      exec (.crcCheck value crc) s = .next { s with
        cmdl := encode (.crcCheck value crc), lastOp := 0x9#4, crcChecked := true, crcOk := crcValid value crc,
        err := .ok, done := true, phase := .idle, pend := none }) ∧
    ∀ (w : Word) (value : Half) (crc : Byte), decode w = .ok (.crcCheck value crc) ↔
      w.extractLsb' 0 8 = 0x09#8 ∧ value = w.extractLsb' 16 16 ∧ crc = w.extractLsb' 8 8

/-- O26. If exec of an instruction answers t: CFG, RAW, RXBUF, UREG.RD, UREG.RES, NEWV, the schedule and what the host read are unchanged; UREG.WR is unchanged but for WRITE_UREG; INIT_DONE, ACTIVE_PORT and CFG_SNAP are unchanged but for INIT; while BUSY everything but DROP is unchanged, and while IDLE DROP is unchanged; CRC_CHECKED is 0 after acceptance but for CRC_CHECK; and every byte of the window outside CMD and STATUS, and for WRITE_UREG outside UREG.WR, reads as before. The byte view of the window is the model's (log 16). (From 40_sequencer_core.md section 1 (R150 to R155), 10_state.md section 2.) -/
def Obligations.AcceptStepLeavesTheRestUnchanged : Prop :=
  ∀ (i : Instr) (s t : State), exec i s = .next t →
      t.cfg = s.cfg ∧ t.raw = s.raw ∧ t.rxbuf = s.rxbuf ∧ t.uregRd = s.uregRd ∧ t.uregRes = s.uregRes ∧ t.newv = s.newv ∧
      t.inputs = s.inputs ∧ t.hostReads = s.hostReads ∧ (i.op ≠ .writeUreg → t.uregWr = s.uregWr) ∧
      (i.op ≠ .init → t.initDone = s.initDone ∧ t.activePort = s.activePort ∧ t.cfgSnap = s.cfgSnap) ∧
      (s.busy = true → t = { s with drop := true }) ∧ (s.busy = false → t.drop = s.drop) ∧
      (s.busy = false → i.op ≠ .crcCheck → t.crcChecked = false ∧ t.crcOk = false) ∧
      ∀ off, ¬ (0x04 ≤ off ∧ off < 0x0C) → (i.op = .writeUreg → off ≠ 0x15) → windowByte t off = windowByte s off

/-- O27. For every request, 3-bit code and byte list: a code outside 0 .. 4 becomes FAIL; an OK answer to a transaction whose byte count differs from the link's read count becomes FAIL; codes 1 to 4 keep their outcome and drop the bytes; a good OK answer keeps its bytes; and the step that answers a Delay runs the operation's continuation for ELAPSED, without normalising. (States R166.) -/
def Obligations.AnswersAreNormalisedFirst : Prop :=
  (∀ (r : Request) (code : BitVec 3) (rx : List Byte),
      (4 < code.toNat → normalise r code rx = (.fail, [])) ∧
      (∀ port link tmo, r = .txn port link tmo → code = 0#3 →
        (rx.length ≠ linkReads link → normalise r code rx = (.fail, [])) ∧
        (rx.length = linkReads link → normalise r code rx = (.ok, rx))) ∧
      ((∀ port link tmo, r ≠ .txn port link tmo) → code = 0#3 → (normalise r code rx).1 = .ok) ∧
      (code = 1#3 → normalise r code rx = (.invalidArg, [])) ∧ (code = 2#3 → normalise r code rx = (.fail, [])) ∧
      (code = 3#3 → normalise r code rx = (.invalidState, [])) ∧ (code = 4#3 → normalise r code rx = (.timeout, []))) ∧
    (∀ (s : State) (tag : Nat) (r : Request) (code : BitVec 3) (rx : List Byte) (rest : List Event),
      s.pend = some ⟨tag, r⟩ → (∀ ms, r ≠ .delay ms) → s.inputs = .transport tag code rx :: rest →
      step s = continueOp (.outcome (normalise r code rx).1 (normalise r code rx).2)
        { s with inputs := rest, pend := none }) ∧
    ∀ (s : State) (tag ms : Nat) (rest : List Event), s.pend = some ⟨tag, .delay ms⟩ →
      s.inputs = .elapsed tag :: rest → step s = continueOp .elapsed { s with inputs := rest, pend := none }

/-- O28. For every state that meets the invariant and every transport answer to its pending request that is not a good answer (code 0 with the right byte count for a Txn, code 0 otherwise): the step completes, IDLE with DONE = 1, no request pending and none issued; ERR is CONFIG, INSTALL or NOT_FOUND for INIT by its phase and the mapped error for every other operation; READ_UREG and SET_RESOLUTION zero UREG.RD and RXBUF (in their read phases), GET_RESOLUTION UREG.RES too, MEASURE_T and MEASURE_RH RAW and RXBUF, and every other result register is unchanged. (States R167.) -/
def Obligations.FailedAnswerEndsTheOperationInThatStep : Prop :=
  ∀ (s : State) (p : Pending) (code : BitVec 3) (rx : List Byte) (rest : List Event), s.Inv → s.pend = some p →
      (∀ ms, p.req ≠ .delay ms) → s.inputs = .transport p.tag code rx :: rest →
      ¬ (code = 0#3 ∧ ∀ port link tmo, p.req = .txn port link tmo → rx.length = linkReads link) →
      ∃ t, step s = .next t ∧ t.phase = .idle ∧ t.done = true ∧ t.pend = none ∧ t.nextTag = s.nextTag ∧
        (s.curOp = some .init → s.phase = .configure → t.err = .config) ∧
        (s.curOp = some .init → s.phase = .install → t.err = .install) ∧
        (s.curOp = some .init → s.phase = .txn1 → t.err = .notFound) ∧
        (s.curOp ≠ some .init → t.err = answerErr code) ∧
        (if (s.curOp = some .readUreg ∨ s.curOp = some .getResolution ∨ s.curOp = some .setResolution) ∧ s.phase ≠ .txn3
          then t.uregRd = 0#8 ∧ t.rxbuf = ⟨0#8, 0#8, 0#8, 0#2⟩
          else t.uregRd = s.uregRd ∧ (s.curOp ≠ some .measureT → s.curOp ≠ some .measureRh → t.rxbuf = s.rxbuf)) ∧
        (if s.curOp = some .getResolution then t.uregRes = 0#8 else t.uregRes = s.uregRes) ∧
        (if s.curOp = some .measureT ∨ s.curOp = some .measureRh
          then t.raw = ⟨0#16, 0#2⟩ ∧ t.rxbuf = ⟨0#8, 0#8, 0#8, 0#2⟩ else t.raw = s.raw) ∧
        t.uregWr = s.uregWr ∧ t.initDone = s.initDone ∧ t.crcChecked = s.crcChecked ∧ t.crcOk = s.crcOk

/-- O29. Whenever a step from a state that meets the invariant ends a running operation other than by reset: INIT completes with OK, CONFIG, INSTALL or NOT_FOUND; every other operation with OK, INVALID_ARG, FAIL, INVALID_STATE or TIMEOUT. (From 60_exceptions.md section 1 (R300), 41_lifecycle.md section 1 (R196), 43_measurement.md section 3 (R249).) -/
def Obligations.CompletionCodesByOperation : Prop :=
  ∀ (s t : State), s.Inv → s.busy = true → step s = .next t → t.busy = false → (∀ rest, s.inputs ≠ .reset :: rest) →
      t.done = true ∧
      (s.curOp = some .init → t.err ∈ [.ok, .config, .install, .notFound]) ∧
      (s.curOp ≠ some .init → t.err ∈ [.ok, .invalidArg, .fail, .invalidState, .timeout])

/-- O30. Whenever a step from a state that meets the invariant brings a measurement into TXN_2, the state before was WAIT_CONV of the same operation, its pending request the Delay, and the event the timer's answer to it; and a step brings a measurement into WAIT_CONV only from TXN_1. (From 43_measurement.md section 2 (R244), 70_reset_and_hazards.md section 3 (R348).) -/
def Obligations.ConversionWaitStandsBetweenTriggerAndRead : Prop :=
  ∀ (s t : State), s.Inv → step s = .next t → (t.curOp = some .measureT ∨ t.curOp = some .measureRh) →
      (t.phase = .txn2 → s.phase ≠ .txn2 → s.phase = .waitConv ∧ s.curOp = t.curOp ∧
        ∃ tag rest, s.pend = some ⟨tag, .delay Config.params.tConvMs⟩ ∧ s.inputs = .elapsed tag :: rest) ∧
      (t.phase = .waitConv → s.phase ≠ .waitConv → s.phase = .txn1 ∧ s.curOp = t.curOp)

/-- O31. For every state whose next event is a host access at SSEQ_BASE + off: with size 4 and off a multiple of 4 in 0x00 .. 0x1C the step answers a next state, for reads and for writes of every value; with any other size or offset the step is refused, so no state changes. So is an access of any size at an address below SSEQ_BASE or from SSEQ_BASE + 0x20 up. (States R83.) -/
def Obligations.OnlyAlignedWordAccessesAreAdmitted : Prop :=
  ∀ (s : State) (off size : Nat) (v : Word) (rest : List Event),
      (size = 4 ∧ off % 4 = 0 ∧ off ≤ 0x1C →
        (HostReads s.inputs off size rest → ∃ t, step s = .next t) ∧
        (HostWrites s.inputs off size v rest → ∃ t, step s = .next t)) ∧
      (¬ (size = 4 ∧ off % 4 = 0 ∧ off ≤ 0x1C) →
        (HostReads s.inputs off size rest → step s = .refused .accessNotAdmitted) ∧
        (HostWrites s.inputs off size v rest → step s = .refused .accessNotAdmitted)) ∧
      ∀ addr : HostAddr, addr.value Config.params < Config.params.sseqBase ∨ Config.params.sseqBase + 0x20 ≤ addr.value Config.params →
        s.inputs = .host (.read addr size) :: rest ∨ s.inputs = .host (.write addr size v) :: rest →
        step s = .refused .accessNotAdmitted

/-- O32. For every state and admitted offset there is a value w that the read returns: the step changes nothing but the schedule and what the host has read; w has 0 in every reserved bit of its register; and a second read at once returns the same w. That the values read are listed is the model's choice (log 10). (From 20_memory.md section 2 (R85).) -/
def Obligations.HostReadsHaveNoSideEffect : Prop :=
  ∀ (s : State) (off : Nat) (rest : List Event), off % 4 = 0 → off ≤ 0x1C →
      HostReads s.inputs off 4 rest → ∃ w, registerWord s off = some w ∧
        step s = .next { s with inputs := rest, hostReads := w :: s.hostReads } ∧
        w &&& (match off with
          | 0x00 => 0xFF0C0000#32 | 0x04 => 0#32 | 0x08 => 0xF080F0C0#32 | 0x0C => 0xFFFC0000#32
          | 0x10 => 0xFC000000#32 | 0x14 => 0xFF000000#32 | _ => 0xFFFFFFFF#32) = 0#32 ∧
        ∀ rest', HostReads rest off 4 rest' →
          core.run 2 s = .next { s with inputs := rest', hostReads := w :: w :: s.hostReads }

/-- O33. A write of CFG sets its RW fields and nothing else; a write of STATUS clears DONE where bit 1 is written 1 and DROP where bit 5 is written 1 and nothing else, and a second such write changes nothing more; a write of RAW, RXBUF, UREG, 0x18 or 0x1C changes nothing; a write of CMD is a command request, latched while IDLE and dropped while BUSY, and of two writes of the same word the second either finds SSEQ busy with the first and is dropped, or is latched again. (States R84.) -/
def Obligations.HostWritesActByRegister : Prop :=
  ∀ (s : State) (v : Word) (rest : List Event),
      (HostWrites s.inputs 0x00 4 v rest → step s = .next { s with
        inputs := rest, cfg := ⟨v.extractLsb' 0 8, v.extractLsb' 8 8, v.getLsbD 16, v.getLsbD 17, v.extractLsb' 20 4⟩ }) ∧
      (HostWrites s.inputs 0x08 4 v rest →
        step s = .next { s with inputs := rest, done := s.done && !v.getLsbD 1, drop := s.drop && !v.getLsbD 5 } ∧
        ∀ rest', HostWrites rest 0x08 4 v rest' → core.run 2 s =
          .next { s with inputs := rest', done := s.done && !v.getLsbD 1, drop := s.drop && !v.getLsbD 5 }) ∧
      (∀ off, off ∈ [0x0C, 0x10, 0x14, 0x18, 0x1C] → HostWrites s.inputs off 4 v rest →
        step s = .next { s with inputs := rest }) ∧
      (HostWrites s.inputs 0x04 4 v rest → ∃ t, step s = .next t ∧
        (s.busy = false → t.cmdl = v) ∧ (s.busy = true → t = { s with inputs := rest, drop := true }) ∧
        ∀ rest', HostWrites rest 0x04 4 v rest' → ∃ u, core.run 2 s = .next u ∧
          (t.busy = true → u = { t with inputs := rest', drop := true }) ∧ (t.busy = false → u.cmdl = v))

/-- O34. For every state: a read of 0x18 or 0x1C returns 0x00000000, and a write there of any value changes nothing. (States R54.) -/
def Obligations.ReservedOffsetsReadZeroAndIgnoreWrites : Prop :=
  ∀ (s : State) (off : Nat) (v : Word) (rest : List Event), off = 0x18 ∨ off = 0x1C →
      (HostReads s.inputs off 4 rest →
        step s = .next { s with inputs := rest, hostReads := 0x00000000#32 :: s.hostReads }) ∧
      (HostWrites s.inputs off 4 v rest → step s = .next { s with inputs := rest })

/-- O35. For every state, the word STATUS reads has BUSY, DONE, INIT_DONE, CRC_CHECKED, CRC_OK and DROP in bits 0 to 5, ERR in 11:8 with the eight codes of the table of R131 (OK 0 to TIMEOUT 7), LAST_OP in 19:16, PHASE in 22:20 with the seven codes of the table of R137 (IDLE 0 to TXN_3 6), ACTIVE_PORT in 27:24 and 0 in the reserved bits; BUSY is 1 exactly when PHASE is not IDLE. A host write of v clears DONE if v[1] and DROP if v[5], and changes nothing else. After reset STATUS reads 0. (States R37, R131.) -/
def Obligations.StatusReadsItsFieldsAndClearsOnWrite : Prop :=
  (∀ s : State, ∃ w, registerWord s 0x08 = some w ∧
      w.getLsbD 0 = decide (s.phase ≠ .idle) ∧ w.getLsbD 1 = s.done ∧ w.getLsbD 2 = s.initDone ∧
      w.getLsbD 3 = s.crcChecked ∧ w.getLsbD 4 = s.crcOk ∧ w.getLsbD 5 = s.drop ∧ w.extractLsb' 6 2 = 0#2 ∧
      w.extractLsb' 8 4 = (match s.err with
        | .ok => 0x0#4 | .config => 0x1#4 | .install => 0x2#4 | .notFound => 0x3#4 | .invalidArg => 0x4#4
        | .fail => 0x5#4 | .invalidState => 0x6#4 | .timeout => 0x7#4) ∧
      w.extractLsb' 12 4 = 0#4 ∧ w.extractLsb' 16 4 = s.lastOp ∧
      w.extractLsb' 20 3 = (match s.phase with
        | .idle => 0#3 | .configure => 1#3 | .install => 2#3 | .txn1 => 3#3 | .waitConv => 4#3 | .txn2 => 5#3
        | .txn3 => 6#3) ∧
      w.getLsbD 23 = false ∧ w.extractLsb' 24 4 = s.activePort ∧
      w.extractLsb' 28 4 = 0#4) ∧
    (∀ (s : State) (v : Word) (rest : List Event), HostWrites s.inputs 0x08 4 v rest →
      step s = .next { s with
        inputs := rest, done := if v.getLsbD 1 = true then false else s.done,
        drop := if v.getLsbD 5 = true then false else s.drop }) ∧
    registerWord State.reset 0x08 = some 0x00000000#32

/-- O36. For every state: CFG reads SDA_PIN in 7:0, SCL_PIN in 15:8, SDA_PU in 16, SCL_PU in 17, PORT in 23:20; CMD reads the latch; RAW reads WORD in 15:0 and STAT in 17:16; RXBUF reads B0, B1, B2 in 7:0, 15:8, 23:16 and COUNT in 25:24; UREG reads RD, WR, RES in 7:0, 15:8, 23:16; and CFG written with v reads v AND 0x00F3FFFF. (From 10_state.md section 2 (R33, R36, R48, R50, R52).) -/
def Obligations.RegistersReadTheirFields : Prop :=
  (∀ s : State,
      (∃ w, registerWord s 0x00 = some w ∧ w.extractLsb' 0 8 = s.cfg.sdaPin ∧ w.extractLsb' 8 8 = s.cfg.sclPin ∧
        w.getLsbD 16 = s.cfg.sdaPu ∧ w.getLsbD 17 = s.cfg.sclPu ∧ w.extractLsb' 20 4 = s.cfg.port) ∧
      registerWord s 0x04 = some s.cmdl ∧
      (∃ w, registerWord s 0x0C = some w ∧ w.extractLsb' 0 16 = s.raw.word ∧ w.extractLsb' 16 2 = s.raw.stat) ∧
      (∃ w, registerWord s 0x10 = some w ∧ w.extractLsb' 0 8 = s.rxbuf.b0 ∧ w.extractLsb' 8 8 = s.rxbuf.b1 ∧
        w.extractLsb' 16 8 = s.rxbuf.b2 ∧ w.extractLsb' 24 2 = s.rxbuf.count) ∧
      (∃ w, registerWord s 0x14 = some w ∧ w.extractLsb' 0 8 = s.uregRd ∧ w.extractLsb' 8 8 = s.uregWr ∧
        w.extractLsb' 16 8 = s.uregRes)) ∧
    ∀ (s : State) (v : Word) (rest : List Event), HostWrites s.inputs 0x00 4 v rest →
      ∃ t, step s = .next t ∧ registerWord t 0x00 = some (v &&& 0x00F3FFFF#32)

/-- O37. For every state and every admitted register offset, the byte of the window at offset off + k, for k = 0 .. 3, has as its bit j the bit 8k + j of the register; and the four lanes of a word put together give the word. (States R87.) -/
def Obligations.ByteLanesAreLittleEndian : Prop :=
  (∀ (s : State) (off k j : Nat) (w : Word), off % 4 = 0 → registerWord s off = some w → k < 4 → j < 8 →
      ∃ b, windowByte s (off + k) = some b ∧ b.getLsbD j = w.getLsbD (8 * k + j)) ∧
    ∀ w : Word, ofLanes (lane w 0) (lane w 1) (lane w 2) (lane w 3) = w

/-- O38. Each pseudo-instruction whose operands fit gives exactly one access: the write of the word in the table to CMD, which is the encoding of its operation with ignored bits 0; to CFG for SETCFG, where each operand arrives in its field; to STATUS with 0x22 for CLRSTAT. Every access is at SSEQ_BASE + offset. A WRITE_UREG, SET_RESOLUTION, CRC_CHECK or SETCFG with any operand outside its field is not assembled; no other pseudo-instruction has an operand. (States R141.) -/
def Obligations.HostStatementsExpandToTheirCommandWords : Prop :=
  (∀ (t : Stmt) (i : Instr), stmtInstr t = some i → t.wf = true → assemble t = some [.write (.sseqBase 0x04) 4 (encode i)]) ∧
    assemble .init = some [.write (.sseqBase 0x04) 4 0x00000001#32] ∧ assemble .softReset = some [.write (.sseqBase 0x04) 4 0x00000002#32] ∧
    assemble .readUreg = some [.write (.sseqBase 0x04) 4 0x00000003#32] ∧
    (∀ v, v ≤ 0xFF → assemble (.writeUreg v) = some [.write (.sseqBase 0x04) 4 (BitVec.ofNat 32 (v <<< 8 ||| 0x04))]) ∧
    assemble .getResolution = some [.write (.sseqBase 0x04) 4 0x00000005#32] ∧
    (∀ r, r ≤ 0xFF → assemble (.setResolution r) = some [.write (.sseqBase 0x04) 4 (BitVec.ofNat 32 (r <<< 8 ||| 0x06))]) ∧
    assemble .measureT = some [.write (.sseqBase 0x04) 4 0x00000007#32] ∧ assemble .measureRh = some [.write (.sseqBase 0x04) 4 0x00000008#32] ∧
    (∀ d c, d ≤ 0xFFFF → c ≤ 0xFF →
      assemble (.crcCheck d c) = some [.write (.sseqBase 0x04) 4 (BitVec.ofNat 32 (d <<< 16 ||| c <<< 8 ||| 0x09))]) ∧
    (∀ port sda scl sdaPu sclPu : Nat, port ≤ 0xF → sda ≤ 0xFF → scl ≤ 0xFF → sdaPu ≤ 1 → sclPu ≤ 1 →
      assemble (.setCfg port sda scl sdaPu sclPu) = some [.write (.sseqBase 0x00) 4
        (BitVec.ofNat 32 (port <<< 20 ||| sclPu <<< 17 ||| sdaPu <<< 16 ||| scl <<< 8 ||| sda))] ∧
      Cfg.ofWord (BitVec.ofNat 32 (port <<< 20 ||| sclPu <<< 17 ||| sdaPu <<< 16 ||| scl <<< 8 ||| sda)) =
        ⟨BitVec.ofNat 8 sda, BitVec.ofNat 8 scl, decide (sdaPu = 1), decide (sclPu = 1), BitVec.ofNat 4 port⟩) ∧
    assemble .clrStat = some [.write (.sseqBase 0x08) 4 0x00000022#32] ∧
    ∀ v d c : Nat, (0xFF < v → assemble (.writeUreg v) = none ∧ assemble (.setResolution v) = none) ∧
      (0xFFFF < d ∨ 0xFF < c → assemble (.crcCheck d c) = none) ∧
      ∀ port sda scl sdaPu sclPu : Nat, 0xF < port ∨ 0xFF < sda ∨ 0xFF < scl ∨ 1 < sdaPu ∨ 1 < sclPu →
        assemble (.setCfg port sda scl sdaPu sclPu) = none

/-- O39. For every schedule of events, the reset state with that schedule meets State.Inv, and so does the state that the SSEQ reset event gives from any state. (From 10_state.md section 6 (R64).) -/
def Obligations.InvariantHoldsAfterReset : Prop :=
  (∀ inputs : List Event, { State.reset with inputs := inputs }.Inv) ∧
    ∀ (s t : State) (rest : List Event), s.inputs = .reset :: rest → step s = .next t → t.Inv

/-- O40. For every state that meets State.Inv, whatever its schedule, if a step answers t then t meets State.Inv: PEND is the request of (CUR_OP, PHASE) and NONE exactly when IDLE; LAST_OP is CMDL.OP; while BUSY DONE is 0, ERR is OK, CRC_CHECKED is 0 and the gate holds; CRC_OK is 0 when CRC_CHECKED is 0; ACTIVE_PORT is CFG_SNAP.PORT; UREG.WR shows NEWV in TXN_3; RAW.WORD[1:0] is 0; RXBUF holds 0, 1 or 3 bytes with unused bytes 0; UREG.RES has no bit outside 0x81. (From 10_state.md sections 2 and 3 (R38 to R61), 40_sequencer_core.md section 2 (R158, R159).) -/
def Obligations.EveryStepKeepsTheInvariant : Prop :=
  ∀ (s t : State), s.Inv → step s = .next t → t.Inv

/-- O41. From a state that meets the invariant no step faults. A CMD write while IDLE is accepted whatever ERR holds, and its effect does not depend on ERR, DONE or the CRC flags: two states that differ only in those give the same next state. DROP alone stays. (States R303.) -/
def Obligations.NoStepFaultsAndNoErrorIsSticky : Prop :=
  (∀ (s : State) (f : Fault), s.Inv → step s ≠ .fault f) ∧
    ∀ (s : State) (v : Word) (rest : List Event), HostWrites s.inputs 0x04 4 v rest → s.busy = false →
      ∃ t, step s = .next t ∧ t.cmdl = v ∧ t.drop = s.drop ∧
        ∀ (e : ErrCode) (d c k : Bool), step { s with err := e, done := d, crcChecked := c, crcOk := k } = .next t

/-- O42. For every busy state that meets the invariant: a step whose event is a host access keeps PHASE, PEND, the latch and the number of requests issued; and a step after which SSEQ is IDLE was SSEQ reset, or the owner's answer to the pending request and set DONE. (States R170.) -/
def Obligations.NoHostActionCancelsAnOperation : Prop :=
  ∀ (s t : State), s.Inv → s.busy = true → step s = .next t →
      ((∃ a rest, s.inputs = .host a :: rest) →
        t.phase = s.phase ∧ t.pend = s.pend ∧ t.cmdl = s.cmdl ∧ t.nextTag = s.nextTag) ∧
      (t.busy = false → (∃ rest, s.inputs = .reset :: rest) ∨
        (t.done = true ∧ ∃ p e rest, s.pend = some p ∧ e.answers p = true ∧ s.inputs = e :: rest))

/-- O43. For every IDLE state with no request pending: a step that is no CMD write and no reset keeps every register and latch, but for DONE and DROP, which a host write of STATUS may clear, and CFG, which a host write of CFG sets. (States R351.) -/
def Obligations.IdleSequencerChangesNothingByItself : Prop :=
  ∀ (s t : State), s.busy = false → s.pend = none → step s = .next t →
      (∀ v rest, ¬ HostWrites s.inputs 0x04 4 v rest) → (∀ rest, s.inputs ≠ .reset :: rest) →
      t = { s with inputs := t.inputs, hostReads := t.hostReads, cfg := t.cfg, done := t.done, drop := t.drop } ∧
      ((∀ v rest, ¬ HostWrites s.inputs 0x08 4 v rest) → t.done = s.done ∧ t.drop = s.drop) ∧
      ((∀ v rest, ¬ HostWrites s.inputs 0x00 4 v rest) → t.cfg = s.cfg)

/-- O44. For every state that meets the invariant and every step: accepting an INIT gives INIT_DONE = 0; if INIT_DONE becomes 1, INIT was running, the event was the transport's OK answer without bytes to its probe, and the step completed it with ERR = OK; INIT_DONE changes in no other step but reset. While it is 0 no bus operation starts (the gate). (States R40.) -/
def Obligations.InitDoneChangesOnlyByInitAndReset : Prop :=
  ∀ (s t : State), s.Inv → step s = .next t →
      (∀ v ign rest, HostWrites s.inputs 0x04 4 v rest → s.busy = false → decode v = .ok (.init ign) →
        t.initDone = false) ∧
      (s.initDone = false → t.initDone = true →
        s.curOp = some .init ∧ s.phase = .txn1 ∧ t.busy = false ∧ t.done = true ∧ t.err = .ok ∧
          ∃ p rest, s.pend = some p ∧ s.inputs = .transport p.tag 0#3 [] :: rest) ∧
      (s.curOp = some .init → s.busy = true → t.busy = false → t.err = .ok → t.done = true → t.initDone = true) ∧
      (s.initDone = true → t.initDone = false → (∃ rest, s.inputs = .reset :: rest) ∨
        ∃ v ign rest, HostWrites s.inputs 0x04 4 v rest ∧ s.busy = false ∧ decode v = .ok (.init ign)) ∧
      (s.initDone = false → s.busy = false → t.busy = true →
        ∃ v ign rest, HostWrites s.inputs 0x04 4 v rest ∧ decode v = .ok (.init ign))

/-- O45. For every step: a CMD write while BUSY gives DROP = 1; DROP becomes 1 only so; DROP becomes 0 only by a host write of STATUS with bit 5 = 1 or by reset, each of which clears it; accepting a command keeps it. (States R44.) -/
def Obligations.DropIsStickyUntilWrittenOrReset : Prop :=
  ∀ (s t : State), step s = .next t →
      (∀ v rest, HostWrites s.inputs 0x04 4 v rest →
        (s.busy = true → t.drop = true) ∧ (s.busy = false → t.drop = s.drop)) ∧
      (s.drop = false → t.drop = true → s.busy = true ∧ ∃ v rest, HostWrites s.inputs 0x04 4 v rest) ∧
      (s.drop = true → t.drop = false → (∃ rest, s.inputs = .reset :: rest) ∨
        ∃ v rest, HostWrites s.inputs 0x08 4 v rest ∧ v.getLsbD 5 = true) ∧
      (∀ v rest, HostWrites s.inputs 0x08 4 v rest → v.getLsbD 5 = true → t.drop = false) ∧
      (∀ rest, s.inputs = .reset :: rest → t.drop = false)

/-- O46. In every state that meets the invariant RAW.WORD[1:0] is 0, and a step keeps it so. A step that changes RAW was SSEQ reset, or the completion of a running MEASURE_T or MEASURE_RH. (States R49.) -/
def Obligations.OnlyMeasurementsWriteRaw : Prop :=
  ∀ (s t : State), s.Inv → step s = .next t →
      s.raw.word.extractLsb' 0 2 = 0#2 ∧ t.raw.word.extractLsb' 0 2 = 0#2 ∧
      (t.raw ≠ s.raw → (∃ rest, s.inputs = .reset :: rest) ∨
        ((s.curOp = some .measureT ∨ s.curOp = some .measureRh) ∧ s.busy = true ∧ t.busy = false))

/-- O47. For every state that meets the invariant: COUNT is 0 with all bytes 0, or 1 with B1 = B2 = 0, or 3; and a step that changes RXBUF was SSEQ reset, or its event was the transport's answer to the pending request of a running READ_UREG, GET_RESOLUTION, SET_RESOLUTION, MEASURE_T or MEASURE_RH in TXN_1 (then RXBUF becomes 0 and the operation has ended) or TXN_2. INIT, SOFT_RESET, WRITE_UREG and CRC_CHECK leave it. (From 10_state.md section 2.5 (R50, R51).) -/
def Obligations.RxbufFollowsTheLastRead : Prop :=
  ∀ (s t : State), s.Inv → step s = .next t →
      (s.rxbuf.count = 0#2 ∧ s.rxbuf.b0 = 0#8 ∧ s.rxbuf.b1 = 0#8 ∧ s.rxbuf.b2 = 0#8 ∨
        s.rxbuf.count = 1#2 ∧ s.rxbuf.b1 = 0#8 ∧ s.rxbuf.b2 = 0#8 ∨ s.rxbuf.count = 3#2) ∧
      (t.rxbuf ≠ s.rxbuf → (∃ rest, s.inputs = .reset :: rest) ∨
        ((∃ p code rx rest, s.pend = some p ∧ s.inputs = .transport p.tag code rx :: rest) ∧
          (∃ o ∈ [Op.readUreg, .getResolution, .setResolution, .measureT, .measureRh], s.curOp = some o) ∧
          (s.phase = .txn2 ∨ s.phase = .txn1 ∧ t.phase = .idle ∧ t.rxbuf = ⟨0#8, 0#8, 0#8, 0#2⟩)))

/-- O48. For every state that meets the invariant and every step but reset: UREG.RD changes only by the transport's answer to the pending request, in TXN_1 (a failure, which gives 0) or TXN_2 of READ_UREG, GET_RESOLUTION or SET_RESOLUTION; UREG.WR changes only in the step that issues the write transaction of WRITE_UREG or SET_RESOLUTION, and every such step leaves it at the byte that link carries; UREG.RES changes only by the transport's answer to the pending request of a running GET_RESOLUTION, in TXN_1 (a failure, which gives 0) or TXN_2. (From 10_state.md section 2.6 (R53).) -/
def Obligations.UregFieldsChangeOnlyByTheirOperations : Prop :=
  ∀ (s t : State), s.Inv → step s = .next t → (∀ rest, s.inputs ≠ .reset :: rest) →
      (t.uregRd ≠ s.uregRd →
        (∃ p code rx rest, s.pend = some p ∧ s.inputs = .transport p.tag code rx :: rest) ∧
        (s.curOp = some .readUreg ∨ s.curOp = some .getResolution ∨ s.curOp = some .setResolution) ∧
        (s.phase = .txn2 ∨ s.phase = .txn1 ∧ t.phase = .idle ∧ t.uregRd = 0#8)) ∧
      (t.uregWr ≠ s.uregWr → (t.curOp = some .writeUreg ∧ t.phase = .txn1 ∨ t.curOp = some .setResolution ∧ t.phase = .txn3) ∧
        t.pend = some ⟨s.nextTag, .txn t.activePort (linkWreg t.uregWr Config.params) Config.params.tTxnMs⟩) ∧
      (t.nextTag ≠ s.nextTag → t.curOp = some .writeUreg ∨ t.curOp = some .setResolution ∧ t.phase = .txn3 →
        t.pend = some ⟨s.nextTag, .txn t.activePort (linkWreg t.uregWr Config.params) Config.params.tTxnMs⟩) ∧
      (t.uregRes ≠ s.uregRes →
        (∃ p code rx rest, s.pend = some p ∧ s.inputs = .transport p.tag code rx :: rest) ∧
        s.curOp = some .getResolution ∧ (s.phase = .txn2 ∨ s.phase = .txn1 ∧ t.phase = .idle ∧ t.uregRes = 0#8))

/-- O49. For every state that meets the invariant and every step: accepting an INIT gives ACTIVE_PORT = CFG.PORT and CFG_SNAP = CFG; any other step but reset keeps ACTIVE_PORT and CFG_SNAP; NEWV changes only by reset or in the step that brings SET_RESOLUTION from TXN_2 to TXN_3. (From 10_state.md section 3 (R59, R61), 41_lifecycle.md section 1 (R197).) -/
def Obligations.ActivePortChangesOnlyByInit : Prop :=
  ∀ (s t : State), s.Inv → step s = .next t →
      (∀ v ign rest, HostWrites s.inputs 0x04 4 v rest → s.busy = false → decode v = .ok (.init ign) →
        t.activePort = s.cfg.port ∧ t.cfgSnap = s.cfg) ∧
      ((∀ v ign rest, HostWrites s.inputs 0x04 4 v rest → s.busy = false → decode v ≠ .ok (.init ign)) →
        (∀ rest, s.inputs ≠ .reset :: rest) → t.activePort = s.activePort ∧ t.cfgSnap = s.cfgSnap) ∧
      (t.newv ≠ s.newv → (∃ rest, s.inputs = .reset :: rest) ∨
        s.curOp = some .setResolution ∧ s.phase = .txn2 ∧ t.phase = .txn3)

/-- O50. For every state, whatever its CFG is replaced by: a step whose event is the transport's or the timer's answer gives the same outcome, with the replaced CFG kept; and so does exec of every instruction other than INIT, dropped, gated or started. So a CFG write reaches the bus only through the next INIT. (From 10_state.md section 2.1 (R34), 70_reset_and_hazards.md section 3 (R354).) -/
def Obligations.RunningOperationDoesNotReadCfg : Prop :=
  (∀ (s : State) (c : Cfg) (e : Event) (rest : List Event), s.inputs = e :: rest →
      ((∃ tag code rx, e = .transport tag code rx) ∨ ∃ tag, e = .elapsed tag) →
      (∀ t, step s = .next t → t.cfg = s.cfg ∧ step { s with cfg := c } = .next { t with cfg := c }) ∧
      (∀ f, step s = .fault f → step { s with cfg := c } = .fault f) ∧
      ∀ r, step s = .refused r → step { s with cfg := c } = .refused r) ∧
    ∀ (i : Instr) (s : State) (c : Cfg), i.op ≠ .init →
      ∃ t, exec i s = .next t ∧ t.cfg = s.cfg ∧ exec i { s with cfg := c } = .next { t with cfg := c }

/-- O51. For every state whose next event is SSEQ reset: the step gives the state in which every register of the window reads 0 and every flag, latch and field has its reset value, PHASE is IDLE and PEND is NONE. No CMD word acts as reset: a CMD write latches its word. (States R340.) -/
def Obligations.ResetZeroesEverything : Prop :=
  (∀ (s : State) (rest : List Event), s.inputs = .reset :: rest →
      ∃ t, step s = .next t ∧ (∀ off, off % 4 = 0 → off ≤ 0x1C → registerWord t off = some 0x00000000#32) ∧
        t.cfg = ⟨0#8, 0#8, false, false, 0#4⟩ ∧ t.cmdl = 0#32 ∧ t.done = false ∧ t.initDone = false ∧
        t.crcChecked = false ∧ t.crcOk = false ∧ t.drop = false ∧ t.err = .ok ∧ t.lastOp = 0#4 ∧ t.raw = ⟨0#16, 0#2⟩ ∧
        t.rxbuf = ⟨0#8, 0#8, 0#8, 0#2⟩ ∧ t.uregRd = 0#8 ∧ t.uregWr = 0#8 ∧ t.uregRes = 0#8 ∧ t.phase = .idle ∧
        t.activePort = 0#4 ∧ t.pend = none ∧ t.cfgSnap = ⟨0#8, 0#8, false, false, 0#4⟩ ∧ t.newv = 0#8 ∧
        t.inputs = rest) ∧
    ∀ (s t : State) (v : Word) (rest : List Event), HostWrites s.inputs 0x04 4 v rest → s.busy = false →
      step s = .next t → t.cmdl = v ∧ t.lastOp = v.extractLsb' 0 4 ∧ t.cfg = s.cfg

/-- O52. If SSEQ reset comes while a request is pending, then after it, and after any number of further steps, an answer that carries that request's number changes nothing but the schedule. That requests carry numbers is the model's form of this rule (log 3). (From 70_reset_and_hazards.md section 1 (R341).) -/
def Obligations.AbandonedRequestIsNeverAnswered : Prop :=
  ∀ (s : State) (p : Pending) (rest : List Event) (n : Nat) (t : State), s.Inv → s.pend = some p →
      s.inputs = .reset :: rest → core.run (n + 1) s = .next t →
      ∀ (e : Event) (later : List Event), (e = .elapsed p.tag ∨ ∃ code rx, e = .transport p.tag code rx) →
        t.inputs = e :: later → step t = .next { t with inputs := later }

/-- O53. For every state: an answer whose number is not that of the pending request, or with no request pending, changes nothing but the schedule (log 3). An ELAPSED for a pending request that is not a Delay, and a transport answer for a pending Delay, are refused by name, for that agent has no such step; that this is a refusal and not a discard is the model's choice (log 4). (From 40_sequencer_core.md section 2 (R158), 70_reset_and_hazards.md section 1 (R341).) -/
def Obligations.OnlyTheOwnersAnswerIsTaken : Prop :=
  (∀ (s : State) (tag : Nat) (e : Event) (rest : List Event), s.inputs = e :: rest →
      (e = .elapsed tag ∨ ∃ code rx, e = .transport tag code rx) → (∀ p, s.pend = some p → p.tag ≠ tag) →
      step s = .next { s with inputs := rest }) ∧
    ∀ (s : State) (p : Pending) (rest : List Event), s.pend = some p →
      ((∀ ms, p.req ≠ .delay ms) → s.inputs = .elapsed p.tag :: rest → step s = .refused .responderNotOwner) ∧
      ∀ ms code rx, p.req = .delay ms → s.inputs = .transport p.tag code rx :: rest →
        step s = .refused .responderNotOwner

/-- O54. For every busy state that meets the invariant: 1 to 3 answers are left; the owner's answer to the pending request, whatever it is, gives a next state with fewer answers left; when none is left the operation has completed: IDLE with DONE = 1. (From 40_sequencer_core.md section 2 (R159).) -/
def Obligations.EveryAnswerBringsCompletionNearer : Prop :=
  ∀ (s : State) (p : Pending) (e : Event) (rest : List Event), s.Inv → s.pend = some p → s.inputs = e :: rest →
      e.answers p = true → 1 ≤ answersLeft s ∧ answersLeft s ≤ 3 ∧
        ∃ t, step s = .next t ∧ answersLeft t < answersLeft s ∧
          (answersLeft t = 0 → t.busy = false ∧ t.done = true) ∧ (answersLeft t ≠ 0 → t.busy = true ∧ t.pend ≠ none)

/-- O55. For every state that meets the invariant with a pending request p, and a schedule with no reset in it and no answer that carries p's number: after any number of steps that all answer a next state, PHASE, PEND, the latch and INIT_DONE are unchanged. The model completes nothing without a response. (From 70_reset_and_hazards.md section 3 (R355).) -/
def Obligations.WithoutAnAnswerTheOperationHangs : Prop :=
  ∀ (s : State) (p : Pending), s.Inv → s.pend = some p → (∀ e ∈ s.inputs, e.silentFor p = true) →
      ∀ (n : Nat) (t : State), core.run n s = .next t →
        t.phase = s.phase ∧ t.pend = some p ∧ t.cmdl = s.cmdl ∧ t.initDone = s.initDone ∧ t.busy = true

/-- O56. From every IDLE state with INIT_DONE = 1 and the invariant: SET_RESOLUTION r, answered OK with the byte cur read, then GET_RESOLUTION, answered OK with the byte back, where back is the byte that SET_RESOLUTION's write transaction carried. Then seven steps end IDLE with DONE = 1, ERR = OK, UREG.RES = r AND 0x81, and back agrees with cur in bits 6:1. The assumption on the sensor is R229's. (From 42_register_access.md section 4 (R229).) -/
def Obligations.SetThenGetResolutionRoundTrips : Prop :=
  ∀ (s : State) (r cur back : Byte) (ign : BitVec 16) (ign' : BitVec 24) (set get : Event) (rest : List Event), s.Inv →
      s.busy = false → s.initDone = true → set.Writes 0x04 4 (encode (.setResolution r ign)) →
      get.Writes 0x04 4 (encode (.getResolution ign')) →
      s.inputs = set :: .transport s.nextTag 0#3 [] ::
        .transport (s.nextTag + 1) 0#3 [cur] :: .transport (s.nextTag + 2) 0#3 [] ::
        get :: .transport (s.nextTag + 3) 0#3 [] ::
        .transport (s.nextTag + 4) 0#3 [back] :: rest →
      (∀ u, core.run 3 s = .next u → u.pend =
        some ⟨s.nextTag + 2, .txn s.activePort (linkWreg back Config.params) Config.params.tTxnMs⟩) →
      ∃ t, core.run 7 s = .next t ∧ t.busy = false ∧ t.done = true ∧ t.err = .ok ∧ t.uregRes = r &&& 0x81#8 ∧
        t.uregRd = back ∧ t.uregWr = back ∧ back &&& 0x7E#8 = cur &&& 0x7E#8 ∧ t.inputs = rest

/-- O57. From every IDLE state with INIT_DONE = 1 and the invariant: MEASURE_T or MEASURE_RH, its trigger answered OK, the wait elapsed and its read answered OK with msb, lsb, crc. Four steps end with RAW reading STAT : WORD, RXBUF the three bytes with COUNT = 3, CRC_CHECKED = 1, CRC_OK = 1 exactly when crc is the CRC-8 of the word, ERR = OK, DONE = 1, and UREG, INIT_DONE, ACTIVE_PORT, DROP and CFG unchanged. (From 43_measurement.md section 2 (R242 to R247).) -/
def Obligations.MeasurementRunDeliversTheWord : Prop :=
  ∀ (s : State) (i : Instr) (msb lsb crc : Byte) (cmd : Event) (rest : List Event), s.Inv → s.busy = false →
      s.initDone = true → (i.op = .measureT ∨ i.op = .measureRh) → cmd.Writes 0x04 4 (encode i) →
      s.inputs = cmd :: .transport s.nextTag 0#3 [] :: .elapsed (s.nextTag + 1) ::
        .transport (s.nextTag + 2) 0#3 [msb, lsb, crc] :: rest →
      ∃ t, core.run 4 s = .next t ∧ t.busy = false ∧ t.done = true ∧ t.err = .ok ∧ t.crcChecked = true ∧
        (t.crcOk = true ↔ crc = crc8 (msb ++ lsb)) ∧ t.raw.stat = lsb.extractLsb' 0 2 ∧
        t.raw.word = (msb ++ (lsb &&& 0xFC#8) : BitVec (8 + 8)) ∧ t.rxbuf = ⟨msb, lsb, crc, 3#2⟩ ∧
        t.uregRd = s.uregRd ∧ t.uregWr = s.uregWr ∧ t.uregRes = s.uregRes ∧ t.initDone = true ∧
        t.activePort = s.activePort ∧ t.drop = s.drop ∧ t.cfg = s.cfg ∧ t.inputs = rest

/-- O58. For every 16-bit value and every crc byte: CrcValid(value, crc) is true exactly when crc = Crc8(value), so exactly one byte is valid for each value; after the loop row[23:8] is 0 and row[7:0] is crc XOR Crc8(value). (States R271.) -/
def Obligations.CrcValidAcceptsExactlyTheCrc8Byte : Prop :=
  ∀ (value : Half) (crc : Byte),
      (crcValid value crc = true ↔ crc = crc8 value) ∧
      (crcRemainder value crc).extractLsb' 8 16 = 0#16 ∧
      (crcRemainder value crc).extractLsb' 0 8 = crc ^^^ crc8 value ∧
      ∃ c, crcValid value c = true ∧ ∀ c', crcValid value c' = true → c' = c

/-- O59. For every 24-bit message m whose high 16 bits and low 8 bits are a valid value and crc, and every bit position k below 24, the message with bit k flipped is not valid. (States R273.) -/
def Obligations.CrcDetectsEverySingleBitError : Prop :=
  ∀ (m : BitVec 24) (k : Nat), k < 24 → crcValid (m.extractLsb' 8 16) (m.extractLsb' 0 8) = true →
      crcValid ((m ^^^ (1#24 <<< k)).extractLsb' 8 16) ((m ^^^ (1#24 <<< k)).extractLsb' 0 8) = false

/-- O60. For every parameter set: SSEQ_BASE is a multiple of 32; an access reaches the window offset off exactly when off is below 0x20 and its address is SSEQ_BASE + off, however the address is written. The step goes by the address alone: two accesses alike but for how their equal addresses are written give the same outcome; and an admitted access at SSEQ_BASE + off reads or writes the register at off. That an address may be written as SSEQ_BASE + off or as a number is the model's form (log 25). (From 20_memory.md sections 1 and 2 (R80, R82).) -/
def Obligations.WindowAddressesAreBaseRelative : Prop :=
  (∀ p : Params, p.sseqBase % 32 = 0 ∧
      ∀ (addr : HostAddr) (off : Nat), addr.offset p = some off ↔ off < 0x20 ∧ addr.value p = p.sseqBase + off) ∧
    (∀ (s : State) (a b : HostAddr) (size : Nat) (v : Word) (rest : List Event),
      a.value Config.params = b.value Config.params →
      step { s with inputs := .host (.read a size) :: rest } = step { s with inputs := .host (.read b size) :: rest } ∧
      step { s with inputs := .host (.write a size v) :: rest } = step { s with inputs := .host (.write b size v) :: rest }) ∧
    ∀ (s : State) (addr : HostAddr) (off : Nat) (v : Word) (rest : List Event), off % 4 = 0 → off ≤ 0x1C →
      addr.value Config.params = Config.params.sseqBase + off →
      (s.inputs = .host (.read addr 4) :: rest → ∃ w, registerWord s off = some w ∧
        step s = .next { s with inputs := rest, hostReads := w :: s.hostReads }) ∧
      (s.inputs = .host (.write addr 4 v) :: rest → step s = registerWrite off v { s with inputs := rest })
end

