-- ==== Sys2Proof/Laws/Decode.lean ====
section
/-! SUPPORT. The fields of an encoded CMD word, the word of decoded fields, and the byte lanes. -/

namespace Sys2Proof

/-! ### Fields of the word the encoder makes -/

@[simp] theorem fieldArg_cmdWord (a : BitVec 24) (o : Op) : fieldArg (cmdWord a o) = a := by
  apply BitVec.eq_of_getLsbD_eq; intro i hi
  simp only [fieldArg, cmdWord, BitVec.getLsbD_append, BitVec.getLsbD_extractLsb']
  rw [if_neg (by omega), if_neg (by omega)]
  simp [hi, show 8 + i - 4 - 4 = i by omega]

@[simp] theorem fieldOp_cmdWord (a : BitVec 24) (o : Op) : fieldOp (cmdWord a o) = o.code := by
  apply BitVec.eq_of_getLsbD_eq; intro i hi
  simp only [fieldOp, cmdWord, BitVec.getLsbD_append, BitVec.getLsbD_extractLsb']
  simp [hi]

@[simp] theorem fieldRsv_cmdWord (a : BitVec 24) (o : Op) : fieldRsv (cmdWord a o) = 0#4 := by
  apply BitVec.eq_of_getLsbD_eq; intro i hi
  simp only [fieldRsv, cmdWord, BitVec.getLsbD_append, BitVec.getLsbD_extractLsb']
  simp [show 4 + i - 4 = i by omega, hi]

@[simp] theorem fieldArgLo_cmdWord2 (h : Half) (l : Byte) (o : Op) : fieldArgLo (cmdWord2 h l o) = l := by
  apply BitVec.eq_of_getLsbD_eq; intro i hi
  simp only [fieldArgLo, cmdWord2, cmdWord, BitVec.getLsbD_append, BitVec.getLsbD_extractLsb']
  simp [hi, show ¬ (8 + i < 4) by omega, show ¬ (8 + i - 4 < 4) by omega, show 8 + i - 4 - 4 = i by omega]

@[simp] theorem fieldArgHi_cmdWord2 (h : Half) (l : Byte) (o : Op) : fieldArgHi (cmdWord2 h l o) = h := by
  apply BitVec.eq_of_getLsbD_eq; intro i hi
  simp only [fieldArgHi, cmdWord2, cmdWord, BitVec.getLsbD_append, BitVec.getLsbD_extractLsb']
  simp [hi, show ¬ (16 + i < 4) by omega, show ¬ (16 + i - 4 < 4) by omega,
    show ¬ (16 + i - 4 - 4 < 8) by omega, show 16 + i - 4 - 4 - 8 = i by omega]

@[simp] theorem fieldRsv_cmdWord2 (h : Half) (l : Byte) (o : Op) : fieldRsv (cmdWord2 h l o) = 0#4 :=
  fieldRsv_cmdWord _ _

@[simp] theorem fieldOp_cmdWord2 (h : Half) (l : Byte) (o : Op) : fieldOp (cmdWord2 h l o) = o.code :=
  fieldOp_cmdWord _ _

@[simp] theorem ofCode_code (o : Op) : Op.ofCode o.code = some o := by cases o <;> rfl

theorem code_of_ofCode : ∀ c o, Op.ofCode c = some o → c = o.code := by decide +revert

@[simp] theorem op_ofFields (o : Op) (w : Word) : (Instr.ofFields o w).op = o := by cases o <;> rfl

theorem fieldOp_encode (i : Instr) : fieldOp (encode i) = i.op.code := by cases i <;> simp [encode, Instr.op]

theorem fieldRsv_encode (i : Instr) : fieldRsv (encode i) = 0#4 := by cases i <;> simp [encode]

/-! ### The word made of its own fields -/

theorem cmdWord_of_fields (w : Word) (o : Op) (hr : fieldRsv w = 0#4) (ho : fieldOp w = o.code) :
    cmdWord (fieldArg w) o = w := by
  have h4 : ∀ i, i < 4 → w.getLsbD (4 + i) = false := by
    intro i hi
    have := congrArg (BitVec.getLsbD · i) hr
    simpa [fieldRsv, BitVec.getLsbD_extractLsb', hi] using this
  have h0 : ∀ i, i < 4 → w.getLsbD i = o.code.getLsbD i := by
    intro i hi
    have := congrArg (BitVec.getLsbD · i) ho
    simpa only [fieldOp, BitVec.getLsbD_extractLsb', hi, decide_true, Bool.true_and, Nat.zero_add] using this
  apply BitVec.eq_of_getLsbD_eq; intro i hi
  simp only [cmdWord, fieldArg, BitVec.getLsbD_append, BitVec.getLsbD_extractLsb']
  by_cases h1 : i < 4
  · simp only [h1, if_true, h0 i h1]
  · by_cases h2 : i - 4 < 4
    · have := h4 (i - 4) h2
      rw [show 4 + (i - 4) = i by omega] at this
      simp [h1, h2, this]
    · simp only [h1, h2, if_false]
      rw [show 8 + (i - 4 - 4) = i by omega]
      simp; intro; omega

theorem fieldArg_eq_append (w : Word) : (fieldArgHi w ++ fieldArgLo w : BitVec (16 + 8)) = fieldArg w := by
  apply BitVec.eq_of_getLsbD_eq; intro i hi
  simp only [fieldArgHi, fieldArgLo, fieldArg, BitVec.getLsbD_append, BitVec.getLsbD_extractLsb']
  by_cases h : i < 8
  · have : i < 24 := by omega
    simp [h, this]
  · have : i < 24 := by omega
    simp [h, this, show 16 + (i - 8) = 8 + i by omega]
    omega

theorem cmdWord2_of_fields (w : Word) (o : Op) (hr : fieldRsv w = 0#4) (ho : fieldOp w = o.code) :
    cmdWord2 (fieldArgHi w) (fieldArgLo w) o = w := by
  unfold cmdWord2
  rw [fieldArg_eq_append]
  exact cmdWord_of_fields w o hr ho

/-- What an OK answer of the decoder says. -/
theorem decode_ok {w : Word} {i : Instr} (h : decode w = .ok i) :
    fieldRsv w = 0#4 ∧ ∃ o, fieldOp w = o.code ∧ i = Instr.ofFields o w := by
  unfold decode at h
  split at h
  · rename_i hr
    refine ⟨hr, ?_⟩
    split at h
    · rename_i o ho
      cases h
      exact ⟨o, code_of_ofCode _ _ ho, rfl⟩
    · cases h
  · cases h

/-! ### Byte lanes -/

theorem ofLanes_lanes (w : Word) : ofLanes (lane w 0) (lane w 1) (lane w 2) (lane w 3) = w := by
  apply BitVec.eq_of_getLsbD_eq; intro i hi
  simp only [ofLanes, lane, BitVec.getLsbD_append, BitVec.getLsbD_extractLsb']
  by_cases h1 : i < 8
  · simp [h1]
  by_cases h2 : i - 8 < 8
  · simp [h1, h2]; congr 1; omega
  by_cases h3 : i - 8 - 8 < 8
  · simp [h1, h2, h3]; congr 1; omega
  · simp [h1, h2, h3, show i - 8 - 8 - 8 < 8 by omega]; congr 1; omega

theorem ofCode_kindCode (k : PrimKind) : PrimKind.ofCode k.code = k := by cases k <;> rfl

end Sys2Proof
end

