-- ==== Sys2Proof/Laws/State.lean ====
section
/-! SUPPORT. One lemma per field per update of the state: what each update writes, and that it leaves the rest. -/

namespace Sys2Proof.Machine

/-! ### `setDrop` -/

@[simp] theorem setDrop_cfg (s : State) : (s.setDrop).cfg = s.cfg := rfl
@[simp] theorem setDrop_cmdl (s : State) : (s.setDrop).cmdl = s.cmdl := rfl
@[simp] theorem setDrop_done (s : State) : (s.setDrop).done = s.done := rfl
@[simp] theorem setDrop_initDone (s : State) : (s.setDrop).initDone = s.initDone := rfl
@[simp] theorem setDrop_crcChecked (s : State) : (s.setDrop).crcChecked = s.crcChecked := rfl
@[simp] theorem setDrop_crcOk (s : State) : (s.setDrop).crcOk = s.crcOk := rfl
@[simp] theorem setDrop_drop (s : State) : (s.setDrop).drop = true := rfl
@[simp] theorem setDrop_err (s : State) : (s.setDrop).err = s.err := rfl
@[simp] theorem setDrop_lastOp (s : State) : (s.setDrop).lastOp = s.lastOp := rfl
@[simp] theorem setDrop_raw (s : State) : (s.setDrop).raw = s.raw := rfl
@[simp] theorem setDrop_rxbuf (s : State) : (s.setDrop).rxbuf = s.rxbuf := rfl
@[simp] theorem setDrop_uregRd (s : State) : (s.setDrop).uregRd = s.uregRd := rfl
@[simp] theorem setDrop_uregWr (s : State) : (s.setDrop).uregWr = s.uregWr := rfl
@[simp] theorem setDrop_uregRes (s : State) : (s.setDrop).uregRes = s.uregRes := rfl
@[simp] theorem setDrop_phase (s : State) : (s.setDrop).phase = s.phase := rfl
@[simp] theorem setDrop_activePort (s : State) : (s.setDrop).activePort = s.activePort := rfl
@[simp] theorem setDrop_pend (s : State) : (s.setDrop).pend = s.pend := rfl
@[simp] theorem setDrop_cfgSnap (s : State) : (s.setDrop).cfgSnap = s.cfgSnap := rfl
@[simp] theorem setDrop_newv (s : State) : (s.setDrop).newv = s.newv := rfl
@[simp] theorem setDrop_nextTag (s : State) : (s.setDrop).nextTag = s.nextTag := rfl
@[simp] theorem setDrop_inputs (s : State) : (s.setDrop).inputs = s.inputs := rfl
@[simp] theorem setDrop_hostReads (s : State) : (s.setDrop).hostReads = s.hostReads := rfl

/-! ### `writeStatus` -/

@[simp] theorem writeStatus_cfg (v : Word) (s : State) : (s.writeStatus v).cfg = s.cfg := rfl
@[simp] theorem writeStatus_cmdl (v : Word) (s : State) : (s.writeStatus v).cmdl = s.cmdl := rfl
@[simp] theorem writeStatus_done (v : Word) (s : State) : (s.writeStatus v).done = (s.done && !v.getLsbD 1) := rfl
@[simp] theorem writeStatus_initDone (v : Word) (s : State) : (s.writeStatus v).initDone = s.initDone := rfl
@[simp] theorem writeStatus_crcChecked (v : Word) (s : State) : (s.writeStatus v).crcChecked = s.crcChecked := rfl
@[simp] theorem writeStatus_crcOk (v : Word) (s : State) : (s.writeStatus v).crcOk = s.crcOk := rfl
@[simp] theorem writeStatus_drop (v : Word) (s : State) : (s.writeStatus v).drop = (s.drop && !v.getLsbD 5) := rfl
@[simp] theorem writeStatus_err (v : Word) (s : State) : (s.writeStatus v).err = s.err := rfl
@[simp] theorem writeStatus_lastOp (v : Word) (s : State) : (s.writeStatus v).lastOp = s.lastOp := rfl
@[simp] theorem writeStatus_raw (v : Word) (s : State) : (s.writeStatus v).raw = s.raw := rfl
@[simp] theorem writeStatus_rxbuf (v : Word) (s : State) : (s.writeStatus v).rxbuf = s.rxbuf := rfl
@[simp] theorem writeStatus_uregRd (v : Word) (s : State) : (s.writeStatus v).uregRd = s.uregRd := rfl
@[simp] theorem writeStatus_uregWr (v : Word) (s : State) : (s.writeStatus v).uregWr = s.uregWr := rfl
@[simp] theorem writeStatus_uregRes (v : Word) (s : State) : (s.writeStatus v).uregRes = s.uregRes := rfl
@[simp] theorem writeStatus_phase (v : Word) (s : State) : (s.writeStatus v).phase = s.phase := rfl
@[simp] theorem writeStatus_activePort (v : Word) (s : State) : (s.writeStatus v).activePort = s.activePort := rfl
@[simp] theorem writeStatus_pend (v : Word) (s : State) : (s.writeStatus v).pend = s.pend := rfl
@[simp] theorem writeStatus_cfgSnap (v : Word) (s : State) : (s.writeStatus v).cfgSnap = s.cfgSnap := rfl
@[simp] theorem writeStatus_newv (v : Word) (s : State) : (s.writeStatus v).newv = s.newv := rfl
@[simp] theorem writeStatus_nextTag (v : Word) (s : State) : (s.writeStatus v).nextTag = s.nextTag := rfl
@[simp] theorem writeStatus_inputs (v : Word) (s : State) : (s.writeStatus v).inputs = s.inputs := rfl
@[simp] theorem writeStatus_hostReads (v : Word) (s : State) : (s.writeStatus v).hostReads = s.hostReads := rfl

/-! ### `setCrc` -/

@[simp] theorem setCrc_cfg (b : Bool) (s : State) : (s.setCrc b).cfg = s.cfg := rfl
@[simp] theorem setCrc_cmdl (b : Bool) (s : State) : (s.setCrc b).cmdl = s.cmdl := rfl
@[simp] theorem setCrc_done (b : Bool) (s : State) : (s.setCrc b).done = s.done := rfl
@[simp] theorem setCrc_initDone (b : Bool) (s : State) : (s.setCrc b).initDone = s.initDone := rfl
@[simp] theorem setCrc_crcChecked (b : Bool) (s : State) : (s.setCrc b).crcChecked = true := rfl
@[simp] theorem setCrc_crcOk (b : Bool) (s : State) : (s.setCrc b).crcOk = b := rfl
@[simp] theorem setCrc_drop (b : Bool) (s : State) : (s.setCrc b).drop = s.drop := rfl
@[simp] theorem setCrc_err (b : Bool) (s : State) : (s.setCrc b).err = s.err := rfl
@[simp] theorem setCrc_lastOp (b : Bool) (s : State) : (s.setCrc b).lastOp = s.lastOp := rfl
@[simp] theorem setCrc_raw (b : Bool) (s : State) : (s.setCrc b).raw = s.raw := rfl
@[simp] theorem setCrc_rxbuf (b : Bool) (s : State) : (s.setCrc b).rxbuf = s.rxbuf := rfl
@[simp] theorem setCrc_uregRd (b : Bool) (s : State) : (s.setCrc b).uregRd = s.uregRd := rfl
@[simp] theorem setCrc_uregWr (b : Bool) (s : State) : (s.setCrc b).uregWr = s.uregWr := rfl
@[simp] theorem setCrc_uregRes (b : Bool) (s : State) : (s.setCrc b).uregRes = s.uregRes := rfl
@[simp] theorem setCrc_phase (b : Bool) (s : State) : (s.setCrc b).phase = s.phase := rfl
@[simp] theorem setCrc_activePort (b : Bool) (s : State) : (s.setCrc b).activePort = s.activePort := rfl
@[simp] theorem setCrc_pend (b : Bool) (s : State) : (s.setCrc b).pend = s.pend := rfl
@[simp] theorem setCrc_cfgSnap (b : Bool) (s : State) : (s.setCrc b).cfgSnap = s.cfgSnap := rfl
@[simp] theorem setCrc_newv (b : Bool) (s : State) : (s.setCrc b).newv = s.newv := rfl
@[simp] theorem setCrc_nextTag (b : Bool) (s : State) : (s.setCrc b).nextTag = s.nextTag := rfl
@[simp] theorem setCrc_inputs (b : Bool) (s : State) : (s.setCrc b).inputs = s.inputs := rfl
@[simp] theorem setCrc_hostReads (b : Bool) (s : State) : (s.setCrc b).hostReads = s.hostReads := rfl

/-! ### `complete` -/

@[simp] theorem complete_cfg (e : ErrCode) (s : State) : (complete e s).cfg = s.cfg := rfl
@[simp] theorem complete_cmdl (e : ErrCode) (s : State) : (complete e s).cmdl = s.cmdl := rfl
@[simp] theorem complete_done (e : ErrCode) (s : State) : (complete e s).done = true := rfl
@[simp] theorem complete_initDone (e : ErrCode) (s : State) : (complete e s).initDone = s.initDone := rfl
@[simp] theorem complete_crcChecked (e : ErrCode) (s : State) : (complete e s).crcChecked = s.crcChecked := rfl
@[simp] theorem complete_crcOk (e : ErrCode) (s : State) : (complete e s).crcOk = s.crcOk := rfl
@[simp] theorem complete_drop (e : ErrCode) (s : State) : (complete e s).drop = s.drop := rfl
@[simp] theorem complete_err (e : ErrCode) (s : State) : (complete e s).err = e := rfl
@[simp] theorem complete_lastOp (e : ErrCode) (s : State) : (complete e s).lastOp = s.lastOp := rfl
@[simp] theorem complete_raw (e : ErrCode) (s : State) : (complete e s).raw = s.raw := rfl
@[simp] theorem complete_rxbuf (e : ErrCode) (s : State) : (complete e s).rxbuf = s.rxbuf := rfl
@[simp] theorem complete_uregRd (e : ErrCode) (s : State) : (complete e s).uregRd = s.uregRd := rfl
@[simp] theorem complete_uregWr (e : ErrCode) (s : State) : (complete e s).uregWr = s.uregWr := rfl
@[simp] theorem complete_uregRes (e : ErrCode) (s : State) : (complete e s).uregRes = s.uregRes := rfl
@[simp] theorem complete_phase (e : ErrCode) (s : State) : (complete e s).phase = .idle := rfl
@[simp] theorem complete_activePort (e : ErrCode) (s : State) : (complete e s).activePort = s.activePort := rfl
@[simp] theorem complete_pend (e : ErrCode) (s : State) : (complete e s).pend = none := rfl
@[simp] theorem complete_cfgSnap (e : ErrCode) (s : State) : (complete e s).cfgSnap = s.cfgSnap := rfl
@[simp] theorem complete_newv (e : ErrCode) (s : State) : (complete e s).newv = s.newv := rfl
@[simp] theorem complete_nextTag (e : ErrCode) (s : State) : (complete e s).nextTag = s.nextTag := rfl
@[simp] theorem complete_inputs (e : ErrCode) (s : State) : (complete e s).inputs = s.inputs := rfl
@[simp] theorem complete_hostReads (e : ErrCode) (s : State) : (complete e s).hostReads = s.hostReads := rfl

/-! ### `accept` -/

@[simp] theorem accept_cfg (w : Word) (s : State) : (accept w s).cfg = s.cfg := rfl
@[simp] theorem accept_cmdl (w : Word) (s : State) : (accept w s).cmdl = w := rfl
@[simp] theorem accept_done (w : Word) (s : State) : (accept w s).done = false := rfl
@[simp] theorem accept_initDone (w : Word) (s : State) : (accept w s).initDone = s.initDone := rfl
@[simp] theorem accept_crcChecked (w : Word) (s : State) : (accept w s).crcChecked = false := rfl
@[simp] theorem accept_crcOk (w : Word) (s : State) : (accept w s).crcOk = false := rfl
@[simp] theorem accept_drop (w : Word) (s : State) : (accept w s).drop = s.drop := rfl
@[simp] theorem accept_err (w : Word) (s : State) : (accept w s).err = .ok := rfl
@[simp] theorem accept_lastOp (w : Word) (s : State) : (accept w s).lastOp = fieldOp w := rfl
@[simp] theorem accept_raw (w : Word) (s : State) : (accept w s).raw = s.raw := rfl
@[simp] theorem accept_rxbuf (w : Word) (s : State) : (accept w s).rxbuf = s.rxbuf := rfl
@[simp] theorem accept_uregRd (w : Word) (s : State) : (accept w s).uregRd = s.uregRd := rfl
@[simp] theorem accept_uregWr (w : Word) (s : State) : (accept w s).uregWr = s.uregWr := rfl
@[simp] theorem accept_uregRes (w : Word) (s : State) : (accept w s).uregRes = s.uregRes := rfl
@[simp] theorem accept_phase (w : Word) (s : State) : (accept w s).phase = s.phase := rfl
@[simp] theorem accept_activePort (w : Word) (s : State) : (accept w s).activePort = s.activePort := rfl
@[simp] theorem accept_pend (w : Word) (s : State) : (accept w s).pend = s.pend := rfl
@[simp] theorem accept_cfgSnap (w : Word) (s : State) : (accept w s).cfgSnap = s.cfgSnap := rfl
@[simp] theorem accept_newv (w : Word) (s : State) : (accept w s).newv = s.newv := rfl
@[simp] theorem accept_nextTag (w : Word) (s : State) : (accept w s).nextTag = s.nextTag := rfl
@[simp] theorem accept_inputs (w : Word) (s : State) : (accept w s).inputs = s.inputs := rfl
@[simp] theorem accept_hostReads (w : Word) (s : State) : (accept w s).hostReads = s.hostReads := rfl

/-! ### `issue` -/

@[simp] theorem issue_cfg (r : Request) (ph : Phase) (s : State) : (issue r ph s).cfg = s.cfg := rfl
@[simp] theorem issue_cmdl (r : Request) (ph : Phase) (s : State) : (issue r ph s).cmdl = s.cmdl := rfl
@[simp] theorem issue_done (r : Request) (ph : Phase) (s : State) : (issue r ph s).done = s.done := rfl
@[simp] theorem issue_initDone (r : Request) (ph : Phase) (s : State) : (issue r ph s).initDone = s.initDone := rfl
@[simp] theorem issue_crcChecked (r : Request) (ph : Phase) (s : State) : (issue r ph s).crcChecked = s.crcChecked := rfl
@[simp] theorem issue_crcOk (r : Request) (ph : Phase) (s : State) : (issue r ph s).crcOk = s.crcOk := rfl
@[simp] theorem issue_drop (r : Request) (ph : Phase) (s : State) : (issue r ph s).drop = s.drop := rfl
@[simp] theorem issue_err (r : Request) (ph : Phase) (s : State) : (issue r ph s).err = s.err := rfl
@[simp] theorem issue_lastOp (r : Request) (ph : Phase) (s : State) : (issue r ph s).lastOp = s.lastOp := rfl
@[simp] theorem issue_raw (r : Request) (ph : Phase) (s : State) : (issue r ph s).raw = s.raw := rfl
@[simp] theorem issue_rxbuf (r : Request) (ph : Phase) (s : State) : (issue r ph s).rxbuf = s.rxbuf := rfl
@[simp] theorem issue_uregRd (r : Request) (ph : Phase) (s : State) : (issue r ph s).uregRd = s.uregRd := rfl
@[simp] theorem issue_uregWr (r : Request) (ph : Phase) (s : State) : (issue r ph s).uregWr = s.uregWr := rfl
@[simp] theorem issue_uregRes (r : Request) (ph : Phase) (s : State) : (issue r ph s).uregRes = s.uregRes := rfl
@[simp] theorem issue_phase (r : Request) (ph : Phase) (s : State) : (issue r ph s).phase = ph := rfl
@[simp] theorem issue_activePort (r : Request) (ph : Phase) (s : State) : (issue r ph s).activePort = s.activePort := rfl
@[simp] theorem issue_pend (r : Request) (ph : Phase) (s : State) : (issue r ph s).pend = some { tag := s.nextTag, req := r } := rfl
@[simp] theorem issue_cfgSnap (r : Request) (ph : Phase) (s : State) : (issue r ph s).cfgSnap = s.cfgSnap := rfl
@[simp] theorem issue_newv (r : Request) (ph : Phase) (s : State) : (issue r ph s).newv = s.newv := rfl
@[simp] theorem issue_nextTag (r : Request) (ph : Phase) (s : State) : (issue r ph s).nextTag = s.nextTag + 1 := rfl
@[simp] theorem issue_inputs (r : Request) (ph : Phase) (s : State) : (issue r ph s).inputs = s.inputs := rfl
@[simp] theorem issue_hostReads (r : Request) (ph : Phase) (s : State) : (issue r ph s).hostReads = s.hostReads := rfl

/-! ### `failRead` -/

@[simp] theorem failRead_cfg (s : State) : (failRead s).cfg = s.cfg := rfl
@[simp] theorem failRead_cmdl (s : State) : (failRead s).cmdl = s.cmdl := rfl
@[simp] theorem failRead_done (s : State) : (failRead s).done = s.done := rfl
@[simp] theorem failRead_initDone (s : State) : (failRead s).initDone = s.initDone := rfl
@[simp] theorem failRead_crcChecked (s : State) : (failRead s).crcChecked = s.crcChecked := rfl
@[simp] theorem failRead_crcOk (s : State) : (failRead s).crcOk = s.crcOk := rfl
@[simp] theorem failRead_drop (s : State) : (failRead s).drop = s.drop := rfl
@[simp] theorem failRead_err (s : State) : (failRead s).err = s.err := rfl
@[simp] theorem failRead_lastOp (s : State) : (failRead s).lastOp = s.lastOp := rfl
@[simp] theorem failRead_raw (s : State) : (failRead s).raw = s.raw := rfl
@[simp] theorem failRead_rxbuf (s : State) : (failRead s).rxbuf = Rxbuf.zero := rfl
@[simp] theorem failRead_uregRd (s : State) : (failRead s).uregRd = 0x00#8 := rfl
@[simp] theorem failRead_uregWr (s : State) : (failRead s).uregWr = s.uregWr := rfl
@[simp] theorem failRead_uregRes (s : State) : (failRead s).uregRes = s.uregRes := rfl
@[simp] theorem failRead_phase (s : State) : (failRead s).phase = s.phase := rfl
@[simp] theorem failRead_activePort (s : State) : (failRead s).activePort = s.activePort := rfl
@[simp] theorem failRead_pend (s : State) : (failRead s).pend = s.pend := rfl
@[simp] theorem failRead_cfgSnap (s : State) : (failRead s).cfgSnap = s.cfgSnap := rfl
@[simp] theorem failRead_newv (s : State) : (failRead s).newv = s.newv := rfl
@[simp] theorem failRead_nextTag (s : State) : (failRead s).nextTag = s.nextTag := rfl
@[simp] theorem failRead_inputs (s : State) : (failRead s).inputs = s.inputs := rfl
@[simp] theorem failRead_hostReads (s : State) : (failRead s).hostReads = s.hostReads := rfl

/-! ### `takeRead` -/

@[simp] theorem takeRead_cfg (b : Byte) (s : State) : (takeRead b s).cfg = s.cfg := rfl
@[simp] theorem takeRead_cmdl (b : Byte) (s : State) : (takeRead b s).cmdl = s.cmdl := rfl
@[simp] theorem takeRead_done (b : Byte) (s : State) : (takeRead b s).done = s.done := rfl
@[simp] theorem takeRead_initDone (b : Byte) (s : State) : (takeRead b s).initDone = s.initDone := rfl
@[simp] theorem takeRead_crcChecked (b : Byte) (s : State) : (takeRead b s).crcChecked = s.crcChecked := rfl
@[simp] theorem takeRead_crcOk (b : Byte) (s : State) : (takeRead b s).crcOk = s.crcOk := rfl
@[simp] theorem takeRead_drop (b : Byte) (s : State) : (takeRead b s).drop = s.drop := rfl
@[simp] theorem takeRead_err (b : Byte) (s : State) : (takeRead b s).err = s.err := rfl
@[simp] theorem takeRead_lastOp (b : Byte) (s : State) : (takeRead b s).lastOp = s.lastOp := rfl
@[simp] theorem takeRead_raw (b : Byte) (s : State) : (takeRead b s).raw = s.raw := rfl
@[simp] theorem takeRead_rxbuf (b : Byte) (s : State) : (takeRead b s).rxbuf = Rxbuf.ofOne b := rfl
@[simp] theorem takeRead_uregRd (b : Byte) (s : State) : (takeRead b s).uregRd = b := rfl
@[simp] theorem takeRead_uregWr (b : Byte) (s : State) : (takeRead b s).uregWr = s.uregWr := rfl
@[simp] theorem takeRead_uregRes (b : Byte) (s : State) : (takeRead b s).uregRes = s.uregRes := rfl
@[simp] theorem takeRead_phase (b : Byte) (s : State) : (takeRead b s).phase = s.phase := rfl
@[simp] theorem takeRead_activePort (b : Byte) (s : State) : (takeRead b s).activePort = s.activePort := rfl
@[simp] theorem takeRead_pend (b : Byte) (s : State) : (takeRead b s).pend = s.pend := rfl
@[simp] theorem takeRead_cfgSnap (b : Byte) (s : State) : (takeRead b s).cfgSnap = s.cfgSnap := rfl
@[simp] theorem takeRead_newv (b : Byte) (s : State) : (takeRead b s).newv = s.newv := rfl
@[simp] theorem takeRead_nextTag (b : Byte) (s : State) : (takeRead b s).nextTag = s.nextTag := rfl
@[simp] theorem takeRead_inputs (b : Byte) (s : State) : (takeRead b s).inputs = s.inputs := rfl
@[simp] theorem takeRead_hostReads (b : Byte) (s : State) : (takeRead b s).hostReads = s.hostReads := rfl

/-! ### `failMeasure` -/

@[simp] theorem failMeasure_cfg (s : State) : (failMeasure s).cfg = s.cfg := rfl
@[simp] theorem failMeasure_cmdl (s : State) : (failMeasure s).cmdl = s.cmdl := rfl
@[simp] theorem failMeasure_done (s : State) : (failMeasure s).done = s.done := rfl
@[simp] theorem failMeasure_initDone (s : State) : (failMeasure s).initDone = s.initDone := rfl
@[simp] theorem failMeasure_crcChecked (s : State) : (failMeasure s).crcChecked = s.crcChecked := rfl
@[simp] theorem failMeasure_crcOk (s : State) : (failMeasure s).crcOk = s.crcOk := rfl
@[simp] theorem failMeasure_drop (s : State) : (failMeasure s).drop = s.drop := rfl
@[simp] theorem failMeasure_err (s : State) : (failMeasure s).err = s.err := rfl
@[simp] theorem failMeasure_lastOp (s : State) : (failMeasure s).lastOp = s.lastOp := rfl
@[simp] theorem failMeasure_raw (s : State) : (failMeasure s).raw = Raw.zero := rfl
@[simp] theorem failMeasure_rxbuf (s : State) : (failMeasure s).rxbuf = Rxbuf.zero := rfl
@[simp] theorem failMeasure_uregRd (s : State) : (failMeasure s).uregRd = s.uregRd := rfl
@[simp] theorem failMeasure_uregWr (s : State) : (failMeasure s).uregWr = s.uregWr := rfl
@[simp] theorem failMeasure_uregRes (s : State) : (failMeasure s).uregRes = s.uregRes := rfl
@[simp] theorem failMeasure_phase (s : State) : (failMeasure s).phase = s.phase := rfl
@[simp] theorem failMeasure_activePort (s : State) : (failMeasure s).activePort = s.activePort := rfl
@[simp] theorem failMeasure_pend (s : State) : (failMeasure s).pend = s.pend := rfl
@[simp] theorem failMeasure_cfgSnap (s : State) : (failMeasure s).cfgSnap = s.cfgSnap := rfl
@[simp] theorem failMeasure_newv (s : State) : (failMeasure s).newv = s.newv := rfl
@[simp] theorem failMeasure_nextTag (s : State) : (failMeasure s).nextTag = s.nextTag := rfl
@[simp] theorem failMeasure_inputs (s : State) : (failMeasure s).inputs = s.inputs := rfl
@[simp] theorem failMeasure_hostReads (s : State) : (failMeasure s).hostReads = s.hostReads := rfl

/-! ### `clearPend` -/

@[simp] theorem clearPend_cfg (s : State) : (clearPend s).cfg = s.cfg := rfl
@[simp] theorem clearPend_cmdl (s : State) : (clearPend s).cmdl = s.cmdl := rfl
@[simp] theorem clearPend_done (s : State) : (clearPend s).done = s.done := rfl
@[simp] theorem clearPend_initDone (s : State) : (clearPend s).initDone = s.initDone := rfl
@[simp] theorem clearPend_crcChecked (s : State) : (clearPend s).crcChecked = s.crcChecked := rfl
@[simp] theorem clearPend_crcOk (s : State) : (clearPend s).crcOk = s.crcOk := rfl
@[simp] theorem clearPend_drop (s : State) : (clearPend s).drop = s.drop := rfl
@[simp] theorem clearPend_err (s : State) : (clearPend s).err = s.err := rfl
@[simp] theorem clearPend_lastOp (s : State) : (clearPend s).lastOp = s.lastOp := rfl
@[simp] theorem clearPend_raw (s : State) : (clearPend s).raw = s.raw := rfl
@[simp] theorem clearPend_rxbuf (s : State) : (clearPend s).rxbuf = s.rxbuf := rfl
@[simp] theorem clearPend_uregRd (s : State) : (clearPend s).uregRd = s.uregRd := rfl
@[simp] theorem clearPend_uregWr (s : State) : (clearPend s).uregWr = s.uregWr := rfl
@[simp] theorem clearPend_uregRes (s : State) : (clearPend s).uregRes = s.uregRes := rfl
@[simp] theorem clearPend_phase (s : State) : (clearPend s).phase = s.phase := rfl
@[simp] theorem clearPend_activePort (s : State) : (clearPend s).activePort = s.activePort := rfl
@[simp] theorem clearPend_pend (s : State) : (clearPend s).pend = none := rfl
@[simp] theorem clearPend_cfgSnap (s : State) : (clearPend s).cfgSnap = s.cfgSnap := rfl
@[simp] theorem clearPend_newv (s : State) : (clearPend s).newv = s.newv := rfl
@[simp] theorem clearPend_nextTag (s : State) : (clearPend s).nextTag = s.nextTag := rfl
@[simp] theorem clearPend_inputs (s : State) : (clearPend s).inputs = s.inputs := rfl
@[simp] theorem clearPend_hostReads (s : State) : (clearPend s).hostReads = s.hostReads := rfl

/-! ### `withInputs` -/

@[simp] theorem withInputs_cfg (rest : List Event) (s : State) : (withInputs rest s).cfg = s.cfg := rfl
@[simp] theorem withInputs_cmdl (rest : List Event) (s : State) : (withInputs rest s).cmdl = s.cmdl := rfl
@[simp] theorem withInputs_done (rest : List Event) (s : State) : (withInputs rest s).done = s.done := rfl
@[simp] theorem withInputs_initDone (rest : List Event) (s : State) : (withInputs rest s).initDone = s.initDone := rfl
@[simp] theorem withInputs_crcChecked (rest : List Event) (s : State) : (withInputs rest s).crcChecked = s.crcChecked := rfl
@[simp] theorem withInputs_crcOk (rest : List Event) (s : State) : (withInputs rest s).crcOk = s.crcOk := rfl
@[simp] theorem withInputs_drop (rest : List Event) (s : State) : (withInputs rest s).drop = s.drop := rfl
@[simp] theorem withInputs_err (rest : List Event) (s : State) : (withInputs rest s).err = s.err := rfl
@[simp] theorem withInputs_lastOp (rest : List Event) (s : State) : (withInputs rest s).lastOp = s.lastOp := rfl
@[simp] theorem withInputs_raw (rest : List Event) (s : State) : (withInputs rest s).raw = s.raw := rfl
@[simp] theorem withInputs_rxbuf (rest : List Event) (s : State) : (withInputs rest s).rxbuf = s.rxbuf := rfl
@[simp] theorem withInputs_uregRd (rest : List Event) (s : State) : (withInputs rest s).uregRd = s.uregRd := rfl
@[simp] theorem withInputs_uregWr (rest : List Event) (s : State) : (withInputs rest s).uregWr = s.uregWr := rfl
@[simp] theorem withInputs_uregRes (rest : List Event) (s : State) : (withInputs rest s).uregRes = s.uregRes := rfl
@[simp] theorem withInputs_phase (rest : List Event) (s : State) : (withInputs rest s).phase = s.phase := rfl
@[simp] theorem withInputs_activePort (rest : List Event) (s : State) : (withInputs rest s).activePort = s.activePort := rfl
@[simp] theorem withInputs_pend (rest : List Event) (s : State) : (withInputs rest s).pend = s.pend := rfl
@[simp] theorem withInputs_cfgSnap (rest : List Event) (s : State) : (withInputs rest s).cfgSnap = s.cfgSnap := rfl
@[simp] theorem withInputs_newv (rest : List Event) (s : State) : (withInputs rest s).newv = s.newv := rfl
@[simp] theorem withInputs_nextTag (rest : List Event) (s : State) : (withInputs rest s).nextTag = s.nextTag := rfl
@[simp] theorem withInputs_inputs (rest : List Event) (s : State) : (withInputs rest s).inputs = rest := rfl
@[simp] theorem withInputs_hostReads (rest : List Event) (s : State) : (withInputs rest s).hostReads = s.hostReads := rfl

/-! ### `resetInput` -/

@[simp] theorem resetInput_cfg (s : State) : (resetInput s).cfg = State.reset.cfg := rfl
@[simp] theorem resetInput_cmdl (s : State) : (resetInput s).cmdl = State.reset.cmdl := rfl
@[simp] theorem resetInput_done (s : State) : (resetInput s).done = State.reset.done := rfl
@[simp] theorem resetInput_initDone (s : State) : (resetInput s).initDone = State.reset.initDone := rfl
@[simp] theorem resetInput_crcChecked (s : State) : (resetInput s).crcChecked = State.reset.crcChecked := rfl
@[simp] theorem resetInput_crcOk (s : State) : (resetInput s).crcOk = State.reset.crcOk := rfl
@[simp] theorem resetInput_drop (s : State) : (resetInput s).drop = State.reset.drop := rfl
@[simp] theorem resetInput_err (s : State) : (resetInput s).err = State.reset.err := rfl
@[simp] theorem resetInput_lastOp (s : State) : (resetInput s).lastOp = State.reset.lastOp := rfl
@[simp] theorem resetInput_raw (s : State) : (resetInput s).raw = State.reset.raw := rfl
@[simp] theorem resetInput_rxbuf (s : State) : (resetInput s).rxbuf = State.reset.rxbuf := rfl
@[simp] theorem resetInput_uregRd (s : State) : (resetInput s).uregRd = State.reset.uregRd := rfl
@[simp] theorem resetInput_uregWr (s : State) : (resetInput s).uregWr = State.reset.uregWr := rfl
@[simp] theorem resetInput_uregRes (s : State) : (resetInput s).uregRes = State.reset.uregRes := rfl
@[simp] theorem resetInput_phase (s : State) : (resetInput s).phase = State.reset.phase := rfl
@[simp] theorem resetInput_activePort (s : State) : (resetInput s).activePort = State.reset.activePort := rfl
@[simp] theorem resetInput_pend (s : State) : (resetInput s).pend = State.reset.pend := rfl
@[simp] theorem resetInput_cfgSnap (s : State) : (resetInput s).cfgSnap = State.reset.cfgSnap := rfl
@[simp] theorem resetInput_newv (s : State) : (resetInput s).newv = State.reset.newv := rfl
@[simp] theorem resetInput_nextTag (s : State) : (resetInput s).nextTag = s.nextTag := rfl
@[simp] theorem resetInput_inputs (s : State) : (resetInput s).inputs = s.inputs := rfl
@[simp] theorem resetInput_hostReads (s : State) : (resetInput s).hostReads = s.hostReads := rfl

/-! ### Views -/

@[simp] theorem busy_eq_false_iff (s : State) : s.busy = false ↔ s.phase = .idle := by
  unfold State.busy; cases s.phase <;> simp

@[simp] theorem busy_eq_true_iff (s : State) : s.busy = true ↔ s.phase ≠ .idle := by
  unfold State.busy; cases s.phase <;> simp

@[simp] theorem busy_withInputs (rest : List Event) (s : State) : (withInputs rest s).busy = s.busy := rfl

@[simp] theorem busy_clearPend (s : State) : (clearPend s).busy = s.busy := rfl

@[simp] theorem busy_accept (w : Word) (s : State) : (accept w s).busy = s.busy := rfl

@[simp] theorem curOp_withInputs (rest : List Event) (s : State) : (withInputs rest s).curOp = s.curOp := rfl

@[simp] theorem curOp_clearPend (s : State) : (clearPend s).curOp = s.curOp := rfl

theorem busy_of_phase {s t : State} (h : s.phase = t.phase) : s.busy = t.busy := by unfold State.busy; rw [h]

theorem curOp_of_cmdl {s t : State} (h : s.cmdl = t.cmdl) : s.curOp = t.curOp := by unfold State.curOp; rw [h]

theorem txnRequest_of_port {s t : State} (h : s.activePort = t.activePort) (l : Params → Link) :
    txnRequest s l = txnRequest t l := by unfold txnRequest; rw [h]

end Sys2Proof.Machine
end

