-- ==== Sys2Proof/Laws/Ops.lean ====
section
/-! SUPPORT. What each shared operation can answer, said once: the command frame, the outcome form, normalisation, the links. -/

namespace Sys2Proof.Machine

/-! ### `command`, `busCommand`, `reservedCommand` -/

theorem command_busy (w : Word) (f : State → State) (s : State) (h : s.busy = true) :
    command w f s = .next s.setDrop := by simp only [command, h, if_true]

theorem command_idle (w : Word) (f : State → State) (s : State) (h : s.busy = false) :
    command w f s = .next (f (accept w s)) := by simp [command, h]

theorem busCommand_busy (w : Word) (f : State → State) (s : State) (h : s.busy = true) :
    busCommand w f s = .next s.setDrop := command_busy w _ s h

theorem busCommand_gated (w : Word) (f : State → State) (s : State) (h : s.busy = false) (hi : s.initDone = false) :
    busCommand w f s = .next (complete .invalidState (accept w s)) := by
  unfold busCommand
  rw [command_idle w _ s h]
  simp [hi]

theorem busCommand_ready (w : Word) (f : State → State) (s : State) (h : s.busy = false) (hi : s.initDone = true) :
    busCommand w f s = .next (f (accept w s)) := by
  unfold busCommand
  rw [command_idle w _ s h]
  simp [hi]

/-! ### `exec` as one equation -/

/-- The start part of each operation's rule (R155). -/
def startOf : Instr → State → State
  | .init _ => startInit
  | .softReset _ => startSoftReset
  | .readUreg _ => startRead
  | .writeUreg value _ => startWriteUreg value
  | .getResolution _ => startRead
  | .setResolution _ _ => startRead
  | .measureT _ => startMeasure linkTrigT
  | .measureRh _ => startMeasure linkTrigRh
  | .crcCheck value crc => startCrcCheck value crc

/-- What `exec` answers, for every instruction: dropped, gated, or accepted and started. -/
theorem exec_eq (i : Instr) (s : State) :
    exec i s = .next (if s.busy then s.setDrop
      else if isBusOp i.op && !s.initDone then complete .invalidState (accept (encode i) s)
      else startOf i (accept (encode i) s)) := by
  cases hb : s.busy <;> cases hi : s.initDone <;> cases i <;>
    simp only [exec, execInit, execSoftReset, execReadUreg, execWriteUreg, execGetResolution, execSetResolution,
      execMeasureT, execMeasureRh, execCrcCheck, busCommand, command, hb, hi, accept_initDone, Instr.op, isBusOp,
      startOf, Bool.not_true, Bool.not_false, Bool.and_true, Bool.and_false, if_true, Bool.false_eq_true, if_false]

theorem exec_next (i : Instr) (s : State) : ∃ t, exec i s = .next t := ⟨_, exec_eq i s⟩

/-! ### Outcomes -/

@[simp] theorem onOutcome_ok (f : State → State) (e : ErrCode) (g : State → State) (s : State) :
    onOutcome .ok f e g s = g s := rfl

theorem onOutcome_failed {o : TxOutcome} (ho : o ≠ .ok) (f : State → State) (e : ErrCode) (g : State → State) (s : State) :
    onOutcome o f e g s = complete e (f s) := by cases o <;> first | exact absurd rfl ho | rfl

theorem readAnswered_ok (b : Byte) (f : State → State) (g : Byte → State → State) (s : State) :
    readAnswered .ok [b] f g s = .next (g b s) := rfl

theorem readAnswered_failed {o : TxOutcome} (ho : o ≠ .ok) (rx : List Byte) (f : State → State)
    (g : Byte → State → State) (s : State) : readAnswered o rx f g s = .next (complete (mapOutcome o) (f s)) := by
  cases o <;> first | exact absurd rfl ho | rfl

theorem measureAnswered_ok (msb lsb crc : Byte) (s : State) :
    measureAnswered .ok [msb, lsb, crc] s = .next (measureTaken msb lsb crc s) := rfl

theorem measureAnswered_failed {o : TxOutcome} (ho : o ≠ .ok) (rx : List Byte) (s : State) :
    measureAnswered o rx s = .next (complete (mapOutcome o) (failMeasure s)) := by
  cases o <;> first | exact absurd rfl ho | rfl

/-! ### Normalisation -/

theorem normalise_cases (r : Request) (code : BitVec 3) (rx : List Byte) :
    normalise r code rx = (.ok, rx) ∧ code = 0#3 ∧ (∀ n, r.reads = some n → rx.length = n) ∨
    normalise r code rx = ((normalise r code rx).1, []) ∧ (normalise r code rx).1 ≠ .ok ∧
      mapOutcome (normalise r code rx).1 = answerErr code ∧ ¬ (code = 0#3 ∧ ∀ n, r.reads = some n → rx.length = n) := by
  have key : ∀ c : BitVec 3, (TxOutcome.ofCode c = some .ok ∧ c = 0#3) ∨
      (TxOutcome.ofCode c = none ∧ c ≠ 0#3 ∧ answerErr c = .fail) ∨
      (TxOutcome.ofCode c = some .invalidArg ∧ c ≠ 0#3 ∧ answerErr c = .invalidArg) ∨
      (TxOutcome.ofCode c = some .fail ∧ c ≠ 0#3 ∧ answerErr c = .fail) ∨
      (TxOutcome.ofCode c = some .invalidState ∧ c ≠ 0#3 ∧ answerErr c = .invalidState) ∨
      (TxOutcome.ofCode c = some .timeout ∧ c ≠ 0#3 ∧ answerErr c = .timeout) := by decide
  rcases key code with ⟨h, h0⟩ | ⟨h, h0, he⟩ | ⟨h, h0, he⟩ | ⟨h, h0, he⟩ | ⟨h, h0, he⟩ | ⟨h, h0, he⟩
  · cases hr : r.reads with
    | none => exact .inl ⟨by simp only [normalise, h, hr], h0, by simp⟩
    | some n =>
      by_cases hl : rx.length = n
      · exact .inl ⟨by simp only [normalise, h, hr, hl, if_true], h0, by simp [hl]⟩
      · right
        refine ⟨by simp [normalise, h, hr, hl], by simp [normalise, h, hr, hl], ?_, ?_⟩
        · subst h0; simp only [normalise, h, hr, hl, if_false]; rfl
        · rintro ⟨-, hn⟩; exact hl (hn n rfl)
  all_goals
    right
    refine ⟨by simp [normalise, h], by simp [normalise, h], by simp [normalise, h, he, mapOutcome], fun hh => h0 hh.1⟩

/-! ### Links -/

theorem linkReads_writeLink (p : Params) (bs : List Byte) : linkReads (writeLink p bs) = 0 := by
  induction bs with
  | nil => rfl
  | cons b bs ih => simp [linkReads, writeLink, primW, primS, primP]

theorem linkReads_readLink (p : Params) (n : Nat) : linkReads (readLink p n) = n + 1 := by
  induction n with
  | zero => rfl
  | succ n ih => simp [linkReads, readLink, List.replicate_succ, primRA, primRN, primP, primS, primW]

@[simp] theorem reads_probe (p : Params) : linkReads (linkProbe p) = 0 := linkReads_writeLink p _
@[simp] theorem reads_reset (p : Params) : linkReads (linkReset p) = 0 := linkReads_writeLink p _
@[simp] theorem reads_rcmd (p : Params) : linkReads (linkRcmd p) = 0 := linkReads_writeLink p _
@[simp] theorem reads_rd1 (p : Params) : linkReads (linkRd1 p) = 1 := linkReads_readLink p 0
@[simp] theorem reads_wreg (v : Byte) (p : Params) : linkReads (linkWreg v p) = 0 := linkReads_writeLink p _
@[simp] theorem reads_trigT (p : Params) : linkReads (linkTrigT p) = 0 := linkReads_writeLink p _
@[simp] theorem reads_trigRh (p : Params) : linkReads (linkTrigRh p) = 0 := linkReads_writeLink p _
@[simp] theorem reads_rd3 (p : Params) : linkReads (linkRd3 p) = 3 := linkReads_readLink p 2

@[simp] theorem reads_txnRequest (s : State) (l : Params → Link) :
    (txnRequest s l).reads = some (linkReads (l Config.params)) := rfl

@[simp] theorem isDelay_txnRequest (s : State) (l : Params → Link) : (txnRequest s l).isDelay = false := rfl

end Sys2Proof.Machine
end

