-- ==== Sys2Proof/Laws/Host.lean ====
section
/-! SUPPORT. Platform addresses and host accesses: which window offset an address reaches, that a step goes by the address
alone, and what `HostReads` and `HostWrites` determine. Later proofs cite these and do not unfold the host port. -/

namespace Sys2Proof.Machine

theorem step_nil {s : State} (h : s.inputs = []) : step s = .next s := by simp only [step, stepOnce, h]

theorem step_cons {s : State} {e : Event} {rest : List Event} (h : s.inputs = e :: rest) :
    step s = handle e (withInputs rest s) := by simp only [step, stepOnce, h]

/-! ### Addresses (R82) -/

@[simp] theorem value_sseqBase (p : Params) (off : Nat) : (HostAddr.sseqBase off).value p = hostAddress p off := rfl
@[simp] theorem value_number (p : Params) (addr : Nat) : (HostAddr.number addr).value p = addr := rfl

theorem hostAddress_injective {p : Params} {a b : Nat} (h : hostAddress p a = hostAddress p b) : a = b := by
  unfold hostAddress at h; omega

/-- An address reaches the window offset its value lies at; for `SSEQ_BASE + off` the base cancels. -/
theorem offset_eq_windowOffset (p : Params) (addr : HostAddr) : addr.offset p = windowOffset p (addr.value p) := by
  cases addr with
  | sseqBase off =>
    simp only [HostAddr.offset, value_sseqBase, hostAddress, windowOffset, Nat.le_add_right, true_and,
      Nat.add_lt_add_iff_left, Nat.add_sub_cancel_left]
  | number addr => rfl

theorem windowOffset_hostAddress {p : Params} {off : Nat} (h : off < 0x20) : windowOffset p (hostAddress p off) = some off := by
  have hw := offset_eq_windowOffset p (.sseqBase off)
  rw [value_sseqBase, HostAddr.offset, if_pos h] at hw
  exact hw.symm

/-- The window offset `off` is reached from the address `SSEQ_BASE + off` and from no other. -/
theorem offset_eq_some_iff {p : Params} {addr : HostAddr} {off : Nat} :
    addr.offset p = some off ↔ off < 0x20 ∧ addr.value p = hostAddress p off := by
  constructor
  · rw [offset_eq_windowOffset, windowOffset]
    split
    · rename_i hw
      intro h
      cases h
      simp only [hostAddress]
      omega
    · rintro ⟨⟩
  · rintro ⟨hl, hv⟩
    rw [offset_eq_windowOffset, hv, windowOffset_hostAddress hl]

/-- An address below the window, or above it, reaches no offset. -/
theorem offset_eq_none_iff {p : Params} {addr : HostAddr} :
    addr.offset p = none ↔ addr.value p < p.sseqBase ∨ p.sseqBase + 0x20 ≤ addr.value p := by
  rw [offset_eq_windowOffset, windowOffset]
  split <;> simp <;> omega

/-! ### Events -/

theorem Event.reads_iff {e : Event} {off size : Nat} (h : off < 0x20) :
    e.Reads off size ↔ ∃ addr : HostAddr, e = .host (.read addr size) ∧ addr.offset Config.params = some off := by
  simp only [Event.Reads, offset_eq_some_iff, h, true_and]

theorem Event.writes_iff {e : Event} {off size : Nat} {v : Word} (h : off < 0x20) :
    e.Writes off size v ↔ ∃ addr : HostAddr, e = .host (.write addr size v) ∧ addr.offset Config.params = some off := by
  simp only [Event.Writes, offset_eq_some_iff, h, true_and]

theorem Event.writes_sseqBase (off size : Nat) (v : Word) : (Event.host (.write (.sseqBase off) size v)).Writes off size v :=
  ⟨_, rfl, rfl⟩

theorem Event.reads_sseqBase (off size : Nat) : (Event.host (.read (.sseqBase off) size)).Reads off size := ⟨_, rfl, rfl⟩

theorem cmdWrite_writes (v : Word) : (cmdWrite v).Writes 0x04 4 v := Event.writes_sseqBase _ _ _

theorem Event.Writes.unique {e : Event} {off off' size size' : Nat} {v v' : Word} (h : e.Writes off size v)
    (h' : e.Writes off' size' v') : off = off' ∧ size = size' ∧ v = v' := by
  obtain ⟨a, rfl, ha⟩ := h
  obtain ⟨b, hb, hv⟩ := h'
  cases hb
  exact ⟨hostAddress_injective (ha.symm.trans hv), rfl, rfl⟩

theorem Event.Reads.unique {e : Event} {off off' size size' : Nat} (h : e.Reads off size) (h' : e.Reads off' size') :
    off = off' ∧ size = size' := by
  obtain ⟨a, rfl, ha⟩ := h
  obtain ⟨b, hb, hv⟩ := h'
  cases hb
  exact ⟨hostAddress_injective (ha.symm.trans hv), rfl⟩

/-! ### The head of the schedule -/

theorem HostWrites.intro {e : Event} {l rest : List Event} {off size : Nat} {v : Word} (h : l = e :: rest)
    (he : e.Writes off size v) : HostWrites l off size v rest := ⟨e, h, he⟩

theorem HostWrites.event {l rest : List Event} {off size : Nat} {v : Word} (h : HostWrites l off size v rest) :
    ∃ addr, l = .host (.write addr size v) :: rest := by
  obtain ⟨e, hl, addr, rfl, -⟩ := h
  exact ⟨addr, hl⟩

theorem HostReads.event {l rest : List Event} {off size : Nat} (h : HostReads l off size rest) :
    ∃ addr, l = .host (.read addr size) :: rest := by
  obtain ⟨e, hl, addr, rfl, -⟩ := h
  exact ⟨addr, hl⟩

theorem HostWrites.unique {l rest rest' : List Event} {off off' size size' : Nat} {v v' : Word}
    (h : HostWrites l off size v rest) (h' : HostWrites l off' size' v' rest') :
    off = off' ∧ size = size' ∧ v = v' ∧ rest = rest' := by
  obtain ⟨e, hl, he⟩ := h
  obtain ⟨e', hl', he'⟩ := h'
  cases hl.symm.trans hl'
  obtain ⟨h1, h2, h3⟩ := he.unique he'
  exact ⟨h1, h2, h3, rfl⟩

theorem HostReads.unique {l rest rest' : List Event} {off off' size size' : Nat} (h : HostReads l off size rest)
    (h' : HostReads l off' size' rest') : off = off' ∧ size = size' ∧ rest = rest' := by
  obtain ⟨e, hl, he⟩ := h
  obtain ⟨e', hl', he'⟩ := h'
  cases hl.symm.trans hl'
  exact ⟨(he.unique he').1, (he.unique he').2, rfl⟩

theorem not_hostWrites_of_hostReads {l rest rest' : List Event} {off off' size size' : Nat} {v : Word}
    (h : HostReads l off size rest) : ¬ HostWrites l off' size' v rest' := by
  intro h'
  obtain ⟨a, ha⟩ := h.event
  obtain ⟨b, hb⟩ := h'.event
  cases ha.symm.trans hb

@[simp] theorem not_hostWrites_nil {off size : Nat} {v : Word} {rest : List Event} : ¬ HostWrites [] off size v rest := by
  rintro ⟨e, h, -⟩
  cases h

@[simp] theorem not_hostWrites_transport {off size tag : Nat} {v : Word} {code : BitVec 3} {rx : List Byte}
    {l rest : List Event} : ¬ HostWrites (.transport tag code rx :: l) off size v rest := by
  rintro ⟨e, h, addr, rfl, -⟩
  cases h

@[simp] theorem not_hostWrites_elapsed {off size tag : Nat} {v : Word} {l rest : List Event} :
    ¬ HostWrites (.elapsed tag :: l) off size v rest := by
  rintro ⟨e, h, addr, rfl, -⟩
  cases h

@[simp] theorem not_hostWrites_reset {off size : Nat} {v : Word} {l rest : List Event} :
    ¬ HostWrites (.reset :: l) off size v rest := by
  rintro ⟨e, h, addr, rfl, -⟩
  cases h

/-! ### Steps by offset -/

/-- An admitted read: the step reads the register at the offset. -/
theorem step_hostRead {s : State} {off : Nat} {rest : List Event} (h : HostReads s.inputs off 4 rest) (h4 : off % 4 = 0)
    (hl : off < 0x20) : step s = registerRead off (withInputs rest s) := by
  obtain ⟨e, hi, he⟩ := h
  obtain ⟨addr, rfl, ho⟩ := (Event.reads_iff hl).mp he
  rw [step_cons hi]
  simp only [handle, hostAccess, ho]
  rw [if_pos (by simp [admitted, h4, hl])]

/-- An admitted write: the step writes the register at the offset. -/
theorem step_hostWrite {s : State} {off : Nat} {v : Word} {rest : List Event} (h : HostWrites s.inputs off 4 v rest)
    (h4 : off % 4 = 0) (hl : off < 0x20) : step s = registerWrite off v (withInputs rest s) := by
  obtain ⟨e, hi, he⟩ := h
  obtain ⟨addr, rfl, ho⟩ := (Event.writes_iff hl).mp he
  rw [step_cons hi]
  simp only [handle, hostAccess, ho]
  rw [if_pos (by simp [admitted, h4, hl])]

theorem admitted_offsets {off size : Nat} (h : admitted off size = true) :
    size = 4 ∧ off % 4 = 0 ∧ off < 0x20 := by simpa [admitted, and_assoc] using h

/-- An access of another shape, or at an address that reaches no offset, is refused. -/
theorem hostAccess_refused {a : Access} {addr : HostAddr} {size : Nat} (s : State)
    (ha : a = .read addr size ∨ ∃ v, a = .write addr size v)
    (h : ∀ off, addr.offset Config.params = some off → admitted off size = false) :
    hostAccess a s = .refused .accessNotAdmitted := by
  cases ho : addr.offset Config.params with
  | none => rcases ha with rfl | ⟨v, rfl⟩ <;> simp only [hostAccess, ho]
  | some off => rcases ha with rfl | ⟨v, rfl⟩ <;> simp [hostAccess, ho, h off ho]

end Sys2Proof.Machine
end

