-- ==== Sys2Proof/Laws/Step.lean ====
section
/-! SUPPORT. What one step can do, said once (`StepShape`, `step_shape`), and what each continuation does at each control
position. Later proofs cite these and do not unfold the step. -/

namespace Sys2Proof.Machine

/-- Every way a step can answer a next state `t`. -/
inductive StepShape (s t : State) : Prop where
  /-- No event: nothing happens. -/
  | waits (h : s.inputs = []) (ht : t = s)
  /-- An admitted host read. -/
  | hostRead (off : Nat) (w : Word) (rest : List Event) (h : HostReads s.inputs off 4 rest)
      (hoff : off % 4 = 0 ∧ off < 0x20) (hw : registerWord s off = some w)
      (ht : t = { withInputs rest s with hostReads := w :: s.hostReads })
  /-- A write of CFG. -/
  | writeCfg (v : Word) (rest : List Event) (h : HostWrites s.inputs 0x00 4 v rest)
      (ht : t = { withInputs rest s with cfg := Cfg.ofWord v })
  /-- A CMD write while BUSY. -/
  | dropped (v : Word) (rest : List Event) (h : HostWrites s.inputs 0x04 4 v rest) (hb : s.busy = true)
      (ht : t = (withInputs rest s).setDrop)
  /-- A reserved CMD word. -/
  | reserved (v : Word) (r : Reserved) (rest : List Event) (h : HostWrites s.inputs 0x04 4 v rest) (hb : s.busy = false)
      (hd : decode v = .error r) (ht : t = complete .invalidArg (accept v (withInputs rest s)))
  /-- A bus operation before INIT. -/
  | gated (v : Word) (i : Instr) (rest : List Event) (h : HostWrites s.inputs 0x04 4 v rest) (hb : s.busy = false)
      (hd : decode v = .ok i) (hg : isBusOp i.op = true) (hi : s.initDone = false)
      (ht : t = complete .invalidState (accept v (withInputs rest s)))
  /-- An operation starts. -/
  | started (v : Word) (i : Instr) (rest : List Event) (h : HostWrites s.inputs 0x04 4 v rest) (hb : s.busy = false)
      (hd : decode v = .ok i) (hg : isBusOp i.op = true → s.initDone = true)
      (ht : t = startOf i (accept v (withInputs rest s)))
  /-- A write of STATUS. -/
  | writeStatus (v : Word) (rest : List Event) (h : HostWrites s.inputs 0x08 4 v rest)
      (ht : t = State.writeStatus v (withInputs rest s))
  /-- A write of a read-only register or a reserved word. -/
  | ignored (off : Nat) (v : Word) (rest : List Event) (h : HostWrites s.inputs off 4 v rest)
      (hoff : off % 4 = 0 ∧ 0x0C ≤ off ∧ off < 0x20) (ht : t = (withInputs rest s))
  /-- An answer that is not for the pending request. -/
  | discarded (e : Event) (rest : List Event) (h : s.inputs = e :: rest)
      (he : ∃ tag, (e = .elapsed tag ∨ ∃ code rx, e = .transport tag code rx) ∧ ∀ p, s.pend = some p → p.tag ≠ tag)
      (ht : t = (withInputs rest s))
  /-- The transport answers the pending request. -/
  | transport (p : Pending) (code : BitVec 3) (rx : List Byte) (rest : List Event) (hp : s.pend = some p)
      (h : s.inputs = .transport p.tag code rx :: rest) (hd : p.req.isDelay = false)
      (hc : continueOp (.outcome (normalise p.req code rx).1 (normalise p.req code rx).2)
        (clearPend (withInputs rest s)) = .next t)
  /-- The delay timer answers the pending request. -/
  | elapsed (p : Pending) (rest : List Event) (hp : s.pend = some p) (h : s.inputs = .elapsed p.tag :: rest)
      (hd : p.req.isDelay = true) (hc : continueOp .elapsed (clearPend (withInputs rest s)) = .next t)
  /-- SSEQ reset. -/
  | reset (rest : List Event) (h : s.inputs = .reset :: rest) (ht : t = resetInput (withInputs rest s))

theorem encode_of_decode_ok {v : Word} {i : Instr} (h : decode v = .ok i) : encode i = v := by
  obtain ⟨hr, o, ho, rfl⟩ := decode_ok h
  cases o <;> first
    | exact cmdWord_of_fields v _ hr ho
    | exact cmdWord2_of_fields v _ hr ho

theorem hostWriteCmd_ok {v : Word} {i : Instr} (h : decode v = .ok i) (s : State) : hostWriteCmd v s = exec i s := by
  simp only [hostWriteCmd, h]

theorem hostWriteCmd_reserved {v : Word} {r : Reserved} (h : decode v = .error r) (s : State) :
    hostWriteCmd v s = reservedCommand v s := by simp only [hostWriteCmd, h]

theorem hostWriteCmd_busy (v : Word) (s : State) (h : s.busy = true) : hostWriteCmd v s = .next s.setDrop := by
  cases hd : decode v with
  | ok i => rw [hostWriteCmd_ok hd, exec_eq, if_pos h]
  | error r => rw [hostWriteCmd_reserved hd]; exact command_busy v _ s h

theorem offset_cases {off : Nat} (h : off % 4 = 0) (hl : off < 0x20) :
    off = 0 ∨ off = 4 ∨ off = 8 ∨ off = 12 ∨ off = 16 ∨ off = 20 ∨ off = 24 ∨ off = 28 := by omega

theorem registerWord_isSome (s : State) {off : Nat} (h : off % 4 = 0) (hl : off < 0x20) :
    ∃ w, registerWord s off = some w := by
  rcases offset_cases h hl with rfl | rfl | rfl | rfl | rfl | rfl | rfl | rfl <;> exact ⟨_, rfl⟩

/-- A CMD write, by its cases. -/
theorem step_cmdWrite {s t : State} {v : Word} {rest : List Event} (h : HostWrites s.inputs 0x04 4 v rest)
    (hs : step s = .next t) : StepShape s t := by
  have hs' : hostWriteCmd v (withInputs rest s) = .next t := by
    rw [step_hostWrite h (by decide) (by decide)] at hs
    exact hs
  cases hb : s.busy with
  | true =>
    rw [hostWriteCmd_busy v (withInputs rest s) hb] at hs'
    cases hs'
    exact .dropped v rest h hb rfl
  | false =>
    have hb' : (withInputs rest s).busy = false := hb
    cases hd : decode v with
    | error r =>
      rw [hostWriteCmd_reserved hd, reservedCommand, command_idle _ _ _ hb'] at hs'
      cases hs'
      exact .reserved v r rest h hb hd rfl
    | ok i =>
      rw [hostWriteCmd_ok hd, exec_eq, encode_of_decode_ok hd, if_neg (by simp [hb])] at hs'
      split at hs'
      · rename_i hg
        cases hs'
        simp only [withInputs_initDone, Bool.and_eq_true, Bool.not_eq_true'] at hg
        exact .gated v i rest h hb hd hg.1 hg.2 rfl
      · rename_i hg
        cases hs'
        simp only [withInputs_initDone, Bool.and_eq_true, Bool.not_eq_true', not_and, Bool.not_eq_false] at hg
        exact .started v i rest h hb hd hg rfl

theorem step_shape {s t : State} (hs : step s = .next t) : StepShape s t := by
  cases hin : s.inputs with
  | nil =>
    rw [step_nil hin] at hs
    cases hs
    exact .waits hin rfl
  | cons e rest =>
    have h1 := hs
    rw [step_cons hin] at hs
    cases e with
    | host a =>
      cases a with
      | read addr size =>
        simp only [handle, hostAccess] at hs
        split at hs
        · rename_i off ho
          split at hs
          · rename_i ha
            obtain ⟨rfl, h4, hl⟩ := admitted_offsets ha
            obtain ⟨w, hw⟩ := registerWord_isSome (withInputs rest s) h4 hl
            simp only [registerRead, hw] at hs
            cases hs
            refine .hostRead off w rest ⟨_, hin, (Event.reads_iff hl).mpr ⟨addr, rfl, ho⟩⟩ ⟨h4, hl⟩ ?_ rfl
            rcases offset_cases h4 hl with rfl | rfl | rfl | rfl | rfl | rfl | rfl | rfl <;> exact hw
          · cases hs
        · cases hs
      | write addr size v =>
        simp only [handle, hostAccess] at hs
        split at hs
        · rename_i off ho
          split at hs
          · rename_i ha
            obtain ⟨rfl, h4, hl⟩ := admitted_offsets ha
            have hw : HostWrites s.inputs off 4 v rest := ⟨_, hin, (Event.writes_iff hl).mpr ⟨addr, rfl, ho⟩⟩
            rcases offset_cases h4 hl with rfl | rfl | rfl | rfl | rfl | rfl | rfl | rfl
            · cases hs; exact .writeCfg v rest hw rfl
            · exact step_cmdWrite hw h1
            · cases hs; exact .writeStatus v rest hw rfl
            all_goals cases hs; exact .ignored _ v rest hw (by decide) rfl
          · cases hs
        · cases hs
    | transport tag code rx =>
      simp only [handle, transportAnswer] at hs
      split at hs
      · rename_i hp
        cases hs
        refine .discarded _ rest hin ⟨tag, .inr ⟨code, rx, rfl⟩, ?_⟩ rfl
        intro p hp'; simp_all
      · rename_i p hp
        split at hs
        · rename_i ht
          split at hs
          · cases hs
          · rename_i hd
            subst ht
            exact .transport p code rx rest hp hin (by simpa using hd) hs
        · rename_i ht
          cases hs
          refine .discarded _ rest hin ⟨tag, .inr ⟨code, rx, rfl⟩, ?_⟩ rfl
          intro p' hp'; simp_all
    | elapsed tag =>
      simp only [handle, timerAnswer] at hs
      split at hs
      · rename_i hp
        cases hs
        refine .discarded _ rest hin ⟨tag, .inl rfl, ?_⟩ rfl
        intro p hp'; simp_all
      · rename_i p hp
        split at hs
        · rename_i ht
          split at hs
          · rename_i hd
            subst ht
            exact .elapsed p rest hp hin hd hs
          · cases hs
        · rename_i ht
          cases hs
          refine .discarded _ rest hin ⟨tag, .inl rfl, ?_⟩ rfl
          intro p' hp'; simp_all
    | reset =>
      cases hs
      exact .reset rest hin rfl

/-! ### Runs -/

theorem coreRun_next (M : Host.Core) {n : Nat} {s t : M.State} (h : M.step s = .next t) :
    M.run (n + 1) s = M.run n t := by rw [Host.Core.run, h]

theorem coreRun_succ (M : Host.Core) {n : Nat} {s t : M.State} (h : M.run (n + 1) s = .next t) :
    ∃ u, M.step s = .next u ∧ M.run n u = .next t := by
  rw [Host.Core.run] at h
  cases hs : M.step s with
  | next u => rw [hs] at h; exact ⟨u, rfl, h⟩
  | fault f => rw [hs] at h; cases h
  | refused r => rw [hs] at h; cases h

/-- A run of `n + 1` steps, from its first step. -/
theorem run_next {n : Nat} {s t : State} (h : step s = .next t) : core.run (n + 1) s = core.run n t :=
  coreRun_next core h

/-- What a run of `n + 1` steps that answers a next state says. -/
theorem run_succ {n : Nat} {s t : State} (h : core.run (n + 1) s = .next t) :
    ∃ u, step s = .next u ∧ core.run n u = .next t := coreRun_succ core h

end Sys2Proof.Machine
end

