-- ==== Sys2Proof/Laws/Answer.lean ====
section
/-! SUPPORT. The answering step: which continuation runs at each control position, and which positions a pending request
allows. -/

namespace Sys2Proof.Machine

/-! ### The two answering steps -/

theorem step_transport {s : State} {p : Pending} {code : BitVec 3} {rx : List Byte} {rest : List Event}
    (hp : s.pend = some p) (hd : p.req.isDelay = false) (h : s.inputs = .transport p.tag code rx :: rest) :
    step s = continueOp (.outcome (normalise p.req code rx).1 (normalise p.req code rx).2)
      (clearPend (withInputs rest s)) := by
  rw [step_cons h]
  simp only [handle, transportAnswer, withInputs_pend, hp, if_true, hd, Bool.false_eq_true, if_false]

theorem step_elapsed {s : State} {p : Pending} {rest : List Event} (hp : s.pend = some p)
    (hd : p.req.isDelay = true) (h : s.inputs = .elapsed p.tag :: rest) :
    step s = continueOp .elapsed (clearPend (withInputs rest s)) := by
  rw [step_cons h]
  simp only [handle, timerAnswer, withInputs_pend, hp, if_true, hd]

/-! ### The continuation of each control position -/

section
variable {s : State} {r : Reply} {o : TxOutcome} {rx : List Byte}

theorem continue_init_configure (h : s.curOp = some .init) (hp : s.phase = .configure) :
    continueOp (.outcome o rx) s = .next (initConfigured o s) := by simp only [continueOp, h, continueInit, hp]

theorem continue_init_install (h : s.curOp = some .init) (hp : s.phase = .install) :
    continueOp (.outcome o rx) s = .next (initInstalled o s) := by simp only [continueOp, h, continueInit, hp]

theorem continue_init_txn1 (h : s.curOp = some .init) (hp : s.phase = .txn1) :
    continueOp (.outcome o rx) s = .next (initProbed o s) := by simp only [continueOp, h, continueInit, hp]

theorem continue_softReset_txn1 (h : s.curOp = some .softReset) (hp : s.phase = .txn1) :
    continueOp (.outcome o rx) s = .next (complete (mapOutcome o) s) := by
  simp only [continueOp, h, continueSoftReset, hp]

theorem continue_readUreg_txn1 (h : s.curOp = some .readUreg) (hp : s.phase = .txn1) :
    continueOp (.outcome o rx) s = .next (readCommanded o failRead s) := by
  simp only [continueOp, h, continueReadUreg, hp]

theorem continue_readUreg_txn2 (h : s.curOp = some .readUreg) (hp : s.phase = .txn2) :
    continueOp (.outcome o rx) s = readAnswered o rx failRead readUregTaken s := by
  simp only [continueOp, h, continueReadUreg, hp]

theorem continue_writeUreg_txn1 (h : s.curOp = some .writeUreg) (hp : s.phase = .txn1) :
    continueOp (.outcome o rx) s = .next (complete (mapOutcome o) s) := by
  simp only [continueOp, h, continueWriteUreg, hp]

theorem continue_getResolution_txn1 (h : s.curOp = some .getResolution) (hp : s.phase = .txn1) :
    continueOp (.outcome o rx) s = .next (readCommanded o failResolution s) := by
  simp only [continueOp, h, continueGetResolution, hp]

theorem continue_getResolution_txn2 (h : s.curOp = some .getResolution) (hp : s.phase = .txn2) :
    continueOp (.outcome o rx) s = readAnswered o rx failResolution resolutionTaken s := by
  simp only [continueOp, h, continueGetResolution, hp]

theorem continue_setResolution_txn1 (h : s.curOp = some .setResolution) (hp : s.phase = .txn1) :
    continueOp (.outcome o rx) s = .next (readCommanded o failRead s) := by
  simp only [continueOp, h, continueSetResolution, hp]

theorem continue_setResolution_txn2 (h : s.curOp = some .setResolution) (hp : s.phase = .txn2) :
    continueOp (.outcome o rx) s = readAnswered o rx failRead resolutionMerged s := by
  simp only [continueOp, h, continueSetResolution, hp]

theorem continue_setResolution_txn3 (h : s.curOp = some .setResolution) (hp : s.phase = .txn3) :
    continueOp (.outcome o rx) s = .next (complete (mapOutcome o) s) := by
  simp only [continueOp, h, continueSetResolution, hp]

/-- The two measurements run the same continuations (R242). -/
theorem continue_measure (h : s.curOp = some .measureT ∨ s.curOp = some .measureRh) :
    continueOp r s = continueMeasure r s := by
  rcases h with h | h <;> simp only [continueOp, h, continueMeasureT, continueMeasureRh]

theorem continueMeasure_txn1 (hp : s.phase = .txn1) :
    continueMeasure (.outcome o rx) s = .next (measureTriggered o s) := by simp only [continueMeasure, hp]

theorem continueMeasure_waitConv (hp : s.phase = .waitConv) :
    continueMeasure .elapsed s = .next (measureWaited s) := by simp only [continueMeasure, hp]

theorem continueMeasure_txn2 (hp : s.phase = .txn2) :
    continueMeasure (.outcome o rx) s = measureAnswered o rx s := by simp only [continueMeasure, hp]

end

/-! ### The control positions a pending request allows -/

/-- Where a state that meets the invariant with the pending request `r` can stand. -/
inductive Position (s : State) (r : Request) : Prop where
  | initConfigure (o : s.curOp = some .init) (ph : s.phase = .configure) (hr : r = configureRequest s.cfgSnap)
  | initInstall (o : s.curOp = some .init) (ph : s.phase = .install) (hr : r = installRequest s.activePort)
  | initProbe (o : s.curOp = some .init) (ph : s.phase = .txn1) (hr : r = txnRequest s linkProbe)
  | softReset (o : s.curOp = some .softReset) (ph : s.phase = .txn1) (hr : r = txnRequest s linkReset)
  | readCommand (o : s.curOp = some .readUreg) (ph : s.phase = .txn1) (hr : r = txnRequest s linkRcmd)
  | readByte (o : s.curOp = some .readUreg) (ph : s.phase = .txn2) (hr : r = txnRequest s linkRd1)
  | writeUreg (o : s.curOp = some .writeUreg) (ph : s.phase = .txn1)
      (hr : r = txnRequest s (linkWreg (fieldArgLo s.cmdl)))
  | getCommand (o : s.curOp = some .getResolution) (ph : s.phase = .txn1) (hr : r = txnRequest s linkRcmd)
  | getByte (o : s.curOp = some .getResolution) (ph : s.phase = .txn2) (hr : r = txnRequest s linkRd1)
  | setCommand (o : s.curOp = some .setResolution) (ph : s.phase = .txn1) (hr : r = txnRequest s linkRcmd)
  | setByte (o : s.curOp = some .setResolution) (ph : s.phase = .txn2) (hr : r = txnRequest s linkRd1)
  | setWrite (o : s.curOp = some .setResolution) (ph : s.phase = .txn3) (hr : r = txnRequest s (linkWreg s.newv))
  | trigger (o : s.curOp = some .measureT ∨ s.curOp = some .measureRh) (ph : s.phase = .txn1)
      (hr : r = txnRequest s (if s.curOp = some .measureT then linkTrigT else linkTrigRh))
  | wait (o : s.curOp = some .measureT ∨ s.curOp = some .measureRh) (ph : s.phase = .waitConv) (hr : r = delayRequest)
  | measureRead (o : s.curOp = some .measureT ∨ s.curOp = some .measureRh) (ph : s.phase = .txn2)
      (hr : r = txnRequest s linkRd3)

theorem position_of_expected {s : State} {r : Request} (h : expectedRequest s = some r) : Position s r := by
  unfold expectedRequest expectedAt at h
  split at h <;> cases h
  · exact .initConfigure ‹_› ‹_› rfl
  · exact .initInstall ‹_› ‹_› rfl
  · exact .initProbe ‹_› ‹_› rfl
  · exact .softReset ‹_› ‹_› rfl
  · exact .readCommand ‹_› ‹_› rfl
  · exact .readByte ‹_› ‹_› rfl
  · exact .writeUreg ‹_› ‹_› rfl
  · exact .getCommand ‹_› ‹_› rfl
  · exact .getByte ‹_› ‹_› rfl
  · exact .setCommand ‹_› ‹_› rfl
  · exact .setByte ‹_› ‹_› rfl
  · exact .setWrite ‹_› ‹_› rfl
  · exact .trigger (.inl ‹_›) ‹_› (by rw [if_pos ‹_›])
  · exact .wait (.inl ‹_›) ‹_› rfl
  · exact .measureRead (.inl ‹_›) ‹_› rfl
  · exact .trigger (.inr ‹_›) ‹_› (by rw [if_neg (by simp_all)])
  · exact .wait (.inr ‹_›) ‹_› rfl
  · exact .measureRead (.inr ‹_›) ‹_› rfl

theorem position_of_pending {s : State} {p : Pending} (hi : s.Inv) (hp : s.pend = some p) : Position s p.req :=
  position_of_expected (by rw [← hi.pendIsExpected, hp]; rfl)

theorem phase_of_pending {s : State} {p : Pending} (hi : s.Inv) (hp : s.pend = some p) : s.phase ≠ .idle := by
  cases position_of_pending hi hp <;> simp_all

theorem busy_of_pending {s : State} {p : Pending} (hi : s.Inv) (hp : s.pend = some p) : s.busy = true :=
  (busy_eq_true_iff s).mpr (phase_of_pending hi hp)

theorem pending_of_busy {s : State} (hi : s.Inv) (hb : s.busy = true) : ∃ p, s.pend = some p :=
  Option.isSome_iff_exists.mp (hi.busyIsPending hb)

theorem pend_of_idle {s : State} (hi : s.Inv) (hb : s.busy = false) : s.pend = none := by
  cases hp : s.pend with
  | none => rfl
  | some p => exact absurd (busy_of_pending hi hp) (by simp [hb])

/-! ### What an answering step gives -/

/-- Every way the answer to the pending request of a state can leave it in `t`; `u` is the state with the request taken
off (`clearPend (withInputs rest s)`). -/
inductive Answered (u t : State) : Prop where
  | configured (o : u.curOp = some .init) (ph : u.phase = .configure)
      (ht : t = issue (installRequest u.activePort) .install u)
  | installed (o : u.curOp = some .init) (ph : u.phase = .install) (ht : t = issueTxn linkProbe .txn1 u)
  | probed (o : u.curOp = some .init) (ph : u.phase = .txn1) (ht : t = complete .ok { u with initDone := true })
  /-- INIT's failures: `e` by the phase. -/
  | initFailed (e : ErrCode) (o : u.curOp = some .init)
      (he : u.phase = .configure ∧ e = .config ∨ u.phase = .install ∧ e = .install ∨ u.phase = .txn1 ∧ e = .notFound)
      (ht : t = complete e u)
  /-- The last transaction of an operation that reads nothing: the outcome mapped. -/
  | written (x : TxOutcome)
      (o : (u.curOp = some .softReset ∨ u.curOp = some .writeUreg) ∧ u.phase = .txn1 ∨
        u.curOp = some .setResolution ∧ u.phase = .txn3)
      (ht : t = complete (mapOutcome x) u)
  | readCommanded (o : u.curOp = some .readUreg ∨ u.curOp = some .getResolution ∨ u.curOp = some .setResolution)
      (ph : u.phase = .txn1) (ht : t = issueTxn linkRd1 .txn2 u)
  | readTaken (b : Byte) (o : u.curOp = some .readUreg) (ph : u.phase = .txn2) (ht : t = complete .ok (takeRead b u))
  | resolutionTaken (b : Byte) (o : u.curOp = some .getResolution) (ph : u.phase = .txn2)
      (ht : t = complete .ok { takeRead b u with uregRes := b &&& resMask })
  | resolutionMerged (b : Byte) (o : u.curOp = some .setResolution) (ph : u.phase = .txn2)
      (ht : t = resolutionMerged b u)
  | readFailed (x : TxOutcome) (hx : x ≠ .ok) (o : u.curOp = some .readUreg ∨ u.curOp = some .setResolution)
      (ph : u.phase = .txn1 ∨ u.phase = .txn2) (ht : t = complete (mapOutcome x) (failRead u))
  | resolutionFailed (x : TxOutcome) (hx : x ≠ .ok) (o : u.curOp = some .getResolution)
      (ph : u.phase = .txn1 ∨ u.phase = .txn2) (ht : t = complete (mapOutcome x) (failResolution u))
  | triggered (o : u.curOp = some .measureT ∨ u.curOp = some .measureRh) (ph : u.phase = .txn1)
      (ht : t = issue delayRequest .waitConv u)
  | measured (msb lsb crc : Byte) (o : u.curOp = some .measureT ∨ u.curOp = some .measureRh) (ph : u.phase = .txn2)
      (ht : t = measureTaken msb lsb crc u)
  | measureFailed (x : TxOutcome) (hx : x ≠ .ok) (o : u.curOp = some .measureT ∨ u.curOp = some .measureRh)
      (ph : u.phase = .txn1 ∨ u.phase = .txn2) (ht : t = complete (mapOutcome x) (failMeasure u))

/-- The transport's answer to the pending request always leads somewhere, and only where `Answered` says. -/
theorem answered_of_transport {s : State} {p : Pending} (hi : s.Inv) (hp : s.pend = some p) (hd : p.req.isDelay = false)
    (code : BitVec 3) (rx : List Byte) (rest : List Event) :
    ∃ t, continueOp (.outcome (normalise p.req code rx).1 (normalise p.req code rx).2) (clearPend (withInputs rest s)) =
      .next t ∧ Answered (clearPend (withInputs rest s)) t := by
  generalize hu : clearPend (withInputs rest s) = u
  have huo : u.curOp = s.curOp := by subst hu; rfl
  have hup : u.phase = s.phase := by subst hu; rfl
  rcases normalise_cases p.req code rx with ⟨hn, -, hl⟩ | ⟨hn, hne, -, -⟩
  · rw [hn]
    cases position_of_pending hi hp <;> rename_i o ph hr <;> rw [← huo] at o <;> rw [← hup] at ph
    case initConfigure => exact ⟨_, continue_init_configure o ph, .configured o ph rfl⟩
    case initInstall => exact ⟨_, continue_init_install o ph, .installed o ph rfl⟩
    case initProbe => exact ⟨_, continue_init_txn1 o ph, .probed o ph rfl⟩
    case softReset => exact ⟨_, continue_softReset_txn1 o ph, .written .ok (.inl ⟨.inl o, ph⟩) rfl⟩
    case writeUreg => exact ⟨_, continue_writeUreg_txn1 o ph, .written .ok (.inl ⟨.inr o, ph⟩) rfl⟩
    case setWrite => exact ⟨_, continue_setResolution_txn3 o ph, .written .ok (.inr ⟨o, ph⟩) rfl⟩
    case readCommand => exact ⟨_, continue_readUreg_txn1 o ph, .readCommanded (.inl o) ph rfl⟩
    case getCommand => exact ⟨_, continue_getResolution_txn1 o ph, .readCommanded (.inr (.inl o)) ph rfl⟩
    case setCommand => exact ⟨_, continue_setResolution_txn1 o ph, .readCommanded (.inr (.inr o)) ph rfl⟩
    case readByte =>
      obtain ⟨b, rfl⟩ := List.length_eq_one_iff.mp (hl 1 (by rw [hr]; simp))
      exact ⟨_, continue_readUreg_txn2 o ph, .readTaken b o ph rfl⟩
    case getByte =>
      obtain ⟨b, rfl⟩ := List.length_eq_one_iff.mp (hl 1 (by rw [hr]; simp))
      exact ⟨_, continue_getResolution_txn2 o ph, .resolutionTaken b o ph rfl⟩
    case setByte =>
      obtain ⟨b, rfl⟩ := List.length_eq_one_iff.mp (hl 1 (by rw [hr]; simp))
      exact ⟨_, continue_setResolution_txn2 o ph, .resolutionMerged b o ph rfl⟩
    case trigger => exact ⟨_, (continue_measure o).trans (continueMeasure_txn1 ph), .triggered o ph rfl⟩
    case wait => rw [hr] at hd; cases hd
    case measureRead =>
      obtain ⟨a, b, c, rfl⟩ := List.length_eq_three.mp (hl 3 (by rw [hr]; simp))
      exact ⟨_, (continue_measure o).trans (continueMeasure_txn2 ph), .measured a b c o ph rfl⟩
  · cases position_of_pending hi hp <;> rename_i o ph hr <;> rw [← huo] at o <;> rw [← hup] at ph
    case initConfigure =>
      exact ⟨_, continue_init_configure o ph, .initFailed .config o (.inl ⟨ph, rfl⟩) (onOutcome_failed hne ..)⟩
    case initInstall =>
      exact ⟨_, continue_init_install o ph, .initFailed .install o (.inr (.inl ⟨ph, rfl⟩)) (onOutcome_failed hne ..)⟩
    case initProbe =>
      exact ⟨_, continue_init_txn1 o ph, .initFailed .notFound o (.inr (.inr ⟨ph, rfl⟩)) (onOutcome_failed hne ..)⟩
    case softReset => exact ⟨_, continue_softReset_txn1 o ph, .written _ (.inl ⟨.inl o, ph⟩) rfl⟩
    case writeUreg => exact ⟨_, continue_writeUreg_txn1 o ph, .written _ (.inl ⟨.inr o, ph⟩) rfl⟩
    case setWrite => exact ⟨_, continue_setResolution_txn3 o ph, .written _ (.inr ⟨o, ph⟩) rfl⟩
    case readCommand =>
      exact ⟨_, continue_readUreg_txn1 o ph, .readFailed _ hne (.inl o) (.inl ph) (onOutcome_failed hne ..)⟩
    case getCommand =>
      exact ⟨_, continue_getResolution_txn1 o ph, .resolutionFailed _ hne o (.inl ph) (onOutcome_failed hne ..)⟩
    case setCommand =>
      exact ⟨_, continue_setResolution_txn1 o ph, .readFailed _ hne (.inr o) (.inl ph) (onOutcome_failed hne ..)⟩
    case readByte =>
      exact ⟨_, (continue_readUreg_txn2 o ph).trans (readAnswered_failed hne ..), .readFailed _ hne (.inl o) (.inr ph) rfl⟩
    case getByte =>
      exact ⟨_, (continue_getResolution_txn2 o ph).trans (readAnswered_failed hne ..), .resolutionFailed _ hne o (.inr ph) rfl⟩
    case setByte =>
      exact ⟨_, (continue_setResolution_txn2 o ph).trans (readAnswered_failed hne ..), .readFailed _ hne (.inr o) (.inr ph) rfl⟩
    case trigger =>
      exact ⟨_, (continue_measure o).trans (continueMeasure_txn1 ph),
        .measureFailed _ hne o (.inl ph) (onOutcome_failed hne ..)⟩
    case wait => rw [hr] at hd; cases hd
    case measureRead =>
      exact ⟨_, (continue_measure o).trans ((continueMeasure_txn2 ph).trans (measureAnswered_failed hne ..)),
        .measureFailed _ hne o (.inr ph) rfl⟩

/-- The delay timer's answer to the pending request issues the measurement's read. -/
theorem waited_of_elapsed {s : State} {p : Pending} (hi : s.Inv) (hp : s.pend = some p) (hd : p.req.isDelay = true)
    (rest : List Event) :
    (s.curOp = some .measureT ∨ s.curOp = some .measureRh) ∧ s.phase = .waitConv ∧ p.req = delayRequest ∧
      continueOp .elapsed (clearPend (withInputs rest s)) =
        .next (issueTxn linkRd3 .txn2 (clearPend (withInputs rest s))) := by
  cases position_of_pending hi hp <;> rename_i o ph hr
  case wait =>
    exact ⟨o, ph, hr, (continue_measure (s := clearPend (withInputs rest s)) o).trans
      (continueMeasure_waitConv (s := clearPend (withInputs rest s)) ph)⟩
  all_goals rw [hr] at hd; cases hd

end Sys2Proof.Machine
end

