-- ==== Sys2Proof/Laws/Crc.lean ====
section
/-! SUPPORT. The division loop is linear in the row, and the eight shifts of the generator are linear: what the equivalence
of the two forms and the error detection rest on. -/

namespace Sys2Proof.Machine

theorem ite_xor_distrib (p q : Bool) (a b d : BitVec 24) :
    (if (p ^^ q) then (a ^^^ b) ^^^ d else a ^^^ b) = (if p then a ^^^ d else a) ^^^ (if q then b ^^^ d else b) := by
  cases p <;> cases q <;> apply BitVec.eq_of_getLsbD_eq <;> intro i hi <;> simp
  all_goals cases a.getLsbD i <;> cases b.getLsbD i <;> cases d.getLsbD i <;> rfl

theorem crcDivide_xor : ∀ (n : Nat) (a b d : BitVec 24),
    crcDivide n (a ^^^ b) d = crcDivide n a d ^^^ crcDivide n b d
  | 0, _, _, _ => rfl
  | n + 1, a, b, d => by
    unfold crcDivide
    rw [BitVec.getLsbD_xor, ite_xor_distrib, crcDivide_xor n]

theorem crcDivide_zero : ∀ (n : Nat) (d : BitVec 24), crcDivide n 0#24 d = 0#24
  | 0, _ => rfl
  | n + 1, d => by
    unfold crcDivide
    simp [crcDivide_zero n]

theorem crc8Shift_xor : ∀ (n : Nat) (a b : Byte), crc8Shift n (a ^^^ b) = crc8Shift n a ^^^ crc8Shift n b
  | 0, _, _ => rfl
  | n + 1, a, b => by
    unfold crc8Shift
    rw [← crc8Shift_xor n]
    congr 1
    rw [BitVec.getLsbD_xor]
    cases a.getLsbD 7 <;> cases b.getLsbD 7 <;> apply BitVec.eq_of_getLsbD_eq <;> intro i hi <;> simp
    all_goals
      cases decide (i < 1) <;> cases a.getLsbD (i - 1) <;> cases b.getLsbD (i - 1) <;>
        cases (0x31#8).getLsbD i <;> simp_all

end Sys2Proof.Machine
end

