-- ==== Sys2Proof/Laws/Invariant.lean ====
section
/-! SUPPORT. What keeps the invariant: completing, issuing the request of the new control position, and any update of the
fields it does not speak of. -/

namespace Sys2Proof.Machine

/-- The part of the invariant that the control position does not touch. -/
structure StoredInv (s : State) : Prop where
  lastOp : s.lastOp = fieldOp s.cmdl
  crc : s.crcChecked = false → s.crcOk = false
  port : s.activePort = s.cfgSnap.port
  raw : s.raw.word &&& 0x0003#16 = 0#16
  rx : s.rxbuf = Rxbuf.zero ∨ (∃ b, s.rxbuf = Rxbuf.ofOne b) ∨ ∃ a b c, s.rxbuf = Rxbuf.ofThree a b c
  res : s.uregRes &&& 0x7E#8 = 0#8

theorem State.Inv.stored {s : State} (h : s.Inv) : StoredInv s :=
  ⟨h.lastOpLatched, h.crcOkChecked, h.portOfSnapshot, h.rawMasked, h.rxbufShape, h.resMasked⟩

theorem expected_idle (s : State) (h : s.phase = .idle) : expectedRequest s = none := by
  unfold expectedRequest expectedAt; split <;> simp_all

theorem expected_at {s : State} {o : Option Op} {ph : Phase} {r : Option Request} (h : s.curOp = o) (hp : s.phase = ph)
    (hr : expectedAt o ph s = r) : expectedRequest s = r := by
  subst h hp hr; rfl

theorem StoredInv.inv_complete {s : State} (h : StoredInv s) (e : ErrCode) : (complete e s).Inv where
  pendIsExpected := by rw [expected_idle _ rfl]; rfl
  busyIsPending := by simp
  tagIssued := by simp
  lastOpLatched := h.lastOp
  busyDecoded := by simp
  busyClean := by simp
  crcOkChecked := h.crc
  gateHeld := by simp
  portOfSnapshot := h.port
  writeBackShown := by simp
  rawMasked := h.raw
  rxbufShape := h.rx
  resMasked := h.res

theorem StoredInv.inv_issue {s : State} (h : StoredInv s) (r : Request) (ph : Phase)
    (hr : expectedRequest (issue r ph s) = some r) (hrsv : fieldRsv s.cmdl = 0#4)
    (hc : s.done = false ∧ s.err = .ok ∧ s.crcChecked = false)
    (hg : s.initDone = true ↔ s.curOp ≠ some .init) (hw : ph = .txn3 → s.uregWr = s.newv) : (issue r ph s).Inv where
  pendIsExpected := by rw [hr]; rfl
  busyIsPending := by simp
  tagIssued := by simp
  lastOpLatched := h.lastOp
  busyDecoded := fun _ => hrsv
  busyClean := fun _ => hc
  crcOkChecked := h.crc
  gateHeld := fun _ => hg
  portOfSnapshot := h.port
  writeBackShown := hw
  rawMasked := h.raw
  rxbufShape := h.rx
  resMasked := h.res

/-- An update that keeps the fields the invariant speaks of keeps the invariant. -/
theorem inv_congr {s t : State} (h : s.Inv) (h1 : t.pend = s.pend) (h2 : t.phase = s.phase) (h3 : t.cmdl = s.cmdl)
    (h4 : t.cfgSnap = s.cfgSnap) (h5 : t.activePort = s.activePort) (h6 : t.newv = s.newv) (h7 : t.nextTag = s.nextTag)
    (h8 : t.lastOp = s.lastOp) (h9 : s.done = false → t.done = false) (h10 : t.err = s.err) (h11 : t.crcChecked = s.crcChecked)
    (h12 : t.crcOk = s.crcOk)
    (h13 : t.initDone = s.initDone) (h14 : t.uregWr = s.uregWr) (h15 : t.raw = s.raw) (h16 : t.rxbuf = s.rxbuf)
    (h17 : t.uregRes = s.uregRes) : t.Inv := by
  have hb := busy_of_phase h2
  have ho := curOp_of_cmdl h3
  have hx : expectedRequest t = expectedRequest s := by
    simp only [expectedRequest, expectedAt, ho, h2, h3, h4, h5, h6, txnRequest_of_port h5]
  constructor
  · rw [hx, h1]; exact h.pendIsExpected
  · rw [hb, h1]; exact h.busyIsPending
  · rw [h1, h7]; exact h.tagIssued
  · rw [h8, h3]; exact h.lastOpLatched
  · rw [hb, h3]; exact h.busyDecoded
  · rw [hb, h10, h11]; intro hh; obtain ⟨a, b, c⟩ := h.busyClean hh; exact ⟨h9 a, b, c⟩
  · rw [h11, h12]; exact h.crcOkChecked
  · rw [hb, h13, ho]; exact h.gateHeld
  · rw [h5, h4]; exact h.portOfSnapshot
  · rw [h2, h14, h6]; exact h.writeBackShown
  · rw [h15]; exact h.rawMasked
  · rw [h16]; exact h.rxbufShape
  · rw [h17]; exact h.resMasked

theorem storedInv_accept {s : State} (h : StoredInv s) (w : Word) : StoredInv (accept w s) :=
  ⟨rfl, fun _ => rfl, h.port, h.raw, h.rx, h.res⟩

theorem storedInv_withInputs {s : State} (h : StoredInv s) (rest : List Event) : StoredInv (withInputs rest s) :=
  ⟨h.lastOp, h.crc, h.port, h.raw, h.rx, h.res⟩

theorem storedInv_clearPend {s : State} (h : StoredInv s) : StoredInv (clearPend s) :=
  ⟨h.lastOp, h.crc, h.port, h.raw, h.rx, h.res⟩

end Sys2Proof.Machine
end

