-- ==== Sys2Proof/Laws/PerInstr.lean ====
section
/-! SUPPORT. Facts about every instruction as syntax, one lemma per constructor. -/

namespace Sys2Proof.Laws

/-- The encoded word of an instruction has RSV = 0 and an OP that selects the instruction's own operation (R111, R112). -/
def CmdEncoding.Statement (i : Instr) : Prop :=
  fieldRsv (encode i) = 0#4 ∧ Op.ofCode (fieldOp (encode i)) = some i.op

theorem CmdEncoding.init (ign : BitVec 24) : CmdEncoding.Statement (.init ign) := by
  simp [CmdEncoding.Statement, encode, Instr.op]

theorem CmdEncoding.softReset (ign : BitVec 24) : CmdEncoding.Statement (.softReset ign) := by
  simp [CmdEncoding.Statement, encode, Instr.op]

theorem CmdEncoding.readUreg (ign : BitVec 24) : CmdEncoding.Statement (.readUreg ign) := by
  simp [CmdEncoding.Statement, encode, Instr.op]

theorem CmdEncoding.writeUreg (value : Byte) (ign : BitVec 16) : CmdEncoding.Statement (.writeUreg value ign) := by
  simp [CmdEncoding.Statement, encode, Instr.op]

theorem CmdEncoding.getResolution (ign : BitVec 24) : CmdEncoding.Statement (.getResolution ign) := by
  simp [CmdEncoding.Statement, encode, Instr.op]

theorem CmdEncoding.setResolution (resolution : Byte) (ign : BitVec 16) :
    CmdEncoding.Statement (.setResolution resolution ign) := by
  simp [CmdEncoding.Statement, encode, Instr.op]

theorem CmdEncoding.measureT (ign : BitVec 24) : CmdEncoding.Statement (.measureT ign) := by
  simp [CmdEncoding.Statement, encode, Instr.op]

theorem CmdEncoding.measureRh (ign : BitVec 24) : CmdEncoding.Statement (.measureRh ign) := by
  simp [CmdEncoding.Statement, encode, Instr.op]

theorem CmdEncoding.crcCheck (value : Half) (crc : Byte) : CmdEncoding.Statement (.crcCheck value crc) := by
  simp [CmdEncoding.Statement, encode, Instr.op]

end Sys2Proof.Laws
end

