-- ==== Sys2Proof/Tests/Slice0.lean ====
section
/-! SUPPORT. The model's own tests. Expected values stand in 95_test_vectors.md and 30_encoding.md; each test names its
section. After them the witnesses: states and operands that meet the hypotheses of each statement. -/

namespace Sys2Proof.Tests

open Sys2Proof Sys2Proof.Machine

/-! ### WellFormed refuses ill-formed terms -/

theorem test_wf_start_flag : Prim.wf { kind := .start, flag := true, data := 0x00#8 } = false := by decide
theorem test_wf_start_data : Prim.wf { kind := .start, flag := false, data := 0x01#8 } = false := by decide
theorem test_wf_write_flag : Prim.wf { kind := .write, flag := false, data := 0x80#8 } = false := by decide
theorem test_wf_read_data : Prim.wf { kind := .read, flag := true, data := 0x01#8 } = false := by decide
theorem test_wf_stop_flag : Prim.wf { kind := .stop, flag := true, data := 0x00#8 } = false := by decide
theorem test_wf_stop_data : Prim.wf { kind := .stop, flag := false, data := 0x80#8 } = false := by decide
theorem test_wf_link_empty : Link.wf [] = false := by decide
theorem test_wf_link_no_start : Link.wf [primW 0x80#8, primW 0xFE#8, primP] = false := by decide
theorem test_wf_link_no_address : Link.wf [primS, primP] = false := by decide
theorem test_wf_link_read_for_address : Link.wf [primS, primRN, primP] = false := by decide
theorem test_wf_link_no_stop : Link.wf [primS, primW 0x80#8] = false := by decide
theorem test_wf_link_after_stop : Link.wf [primS, primW 0x80#8, primP, primP] = false := by decide
theorem test_wf_link_repeated_start : Link.wf [primS, primW 0x80#8, primS, primW 0x81#8, primRN, primP] = false := by decide
theorem test_wf_link_mixed : Link.wf [primS, primW 0x80#8, primW 0xE7#8, primRN, primP] = false := by decide
theorem test_wf_link_last_read_acked : Link.wf [primS, primW 0x81#8, primRA, primP] = false := by decide
theorem test_wf_link_early_nack : Link.wf [primS, primW 0x81#8, primRN, primRA, primP] = false := by decide
theorem test_wf_link_bad_primitive :
    Link.wf [primS, { kind := .write, flag := false, data := 0x80#8 }, primP] = false := by decide
theorem test_wf_links_accepted :
    [linkProbe Params.usual, linkReset Params.usual, linkRcmd Params.usual, linkRd1 Params.usual,
      linkWreg 0x3A#8 Params.usual, linkTrigT Params.usual, linkTrigRh Params.usual, linkRd3 Params.usual].all Link.wf =
      true := by decide
theorem test_wf_writeUreg : Stmt.wf (.writeUreg 0x100) = false ∧ Stmt.wf (.writeUreg 0xFF) = true := by decide
theorem test_wf_setResolution : Stmt.wf (.setResolution 0x100) = false ∧ Stmt.wf (.setResolution 0xFF) = true := by decide
theorem test_wf_crcCheck : Stmt.wf (.crcCheck 0x10000 0) = false ∧ Stmt.wf (.crcCheck 0 0x100) = false ∧
    Stmt.wf (.crcCheck 0xFFFF 0xFF) = true := by decide
theorem test_wf_setCfg : Stmt.wf (.setCfg 16 0 0 0 0) = false ∧ Stmt.wf (.setCfg 0 256 0 0 0) = false ∧
    Stmt.wf (.setCfg 0 0 256 0 0) = false ∧ Stmt.wf (.setCfg 0 0 0 2 0) = false ∧ Stmt.wf (.setCfg 0 0 0 0 2) = false ∧
    Stmt.wf (.setCfg 15 255 255 1 1) = true := by decide

/-! ### Decoding, from words written out as `ARG_HI : ARG_LO : RSV : OP` (30_encoding.md R111, R112) -/

theorem test_decode_init : decode 0b0000000000000000_00000000_0000_0001#32 = .ok (.init 0x000000#24) := by decide
theorem test_decode_softReset : decode 0b0000000000000000_00000001_0000_0010#32 = .ok (.softReset 0x000001#24) := by decide
theorem test_decode_readUreg : decode 0b1000000000000000_00000000_0000_0011#32 = .ok (.readUreg 0x800000#24) := by decide
theorem test_decode_writeUreg :
    decode 0b1111111111111111_00111010_0000_0100#32 = .ok (.writeUreg 0x3A#8 0xFFFF#16) := by decide
theorem test_decode_getResolution :
    decode 0b0000000000000001_00000010_0000_0101#32 = .ok (.getResolution 0x000102#24) := by decide
theorem test_decode_setResolution :
    decode 0b0000000000000000_10000001_0000_0110#32 = .ok (.setResolution 0x81#8 0x0000#16) := by decide
theorem test_decode_measureT : decode 0b1111111111111111_11111111_0000_0111#32 = .ok (.measureT 0xFFFFFF#24) := by decide
theorem test_decode_measureRh : decode 0b0000000000000000_00000000_0000_1000#32 = .ok (.measureRh 0x000000#24) := by decide
theorem test_decode_crcCheck :
    decode 0b0110100000111010_01111100_0000_1001#32 = .ok (.crcCheck 0x683A#16 0x7C#8) := by decide

/-- The reserved words of 95_test_vectors.md section 2.1. -/
theorem test_decode_reserved :
    decode 0x00000000#32 = .error .opReserved ∧ decode 0x0000000A#32 = .error .opReserved ∧
    decode 0x0000000F#32 = .error .opReserved ∧ decode 0x00000010#32 = .error .rsvNotZero ∧
    decode 0x000000F7#32 = .error .rsvNotZero ∧ decode 0x00000019#32 = .error .rsvNotZero := by decide

theorem test_decodeBytes_one_word :
    decodeBytes [0x09#8, 0x7C#8, 0x3A#8, 0x68#8] = .ok (.crcCheck 0x683A#16 0x7C#8) ∧
    decodeBytes [0x09#8] = .error .notOneWord ∧ decodeBytes [] = .error .notOneWord ∧
    decodeBytes [0x01#8, 0x00#8, 0x00#8, 0x00#8, 0x00#8] = .error .notOneWord := by decide

theorem test_decodeTableWord :
    decodeTableWord 32 0x683A7C09 = some (.crcCheck 0x683A#16 0x7C#8) ∧ decodeTableWord 8 0x02 = some (.softReset 0#24) ∧
    decodeTableWord 32 0x10 = none := by decide

/-! ### Links (95_test_vectors.md section 2.2; 30_encoding.md R125) -/

theorem test_links_usual :
    (linkProbe Params.usual).map Prim.encode = [0x000#11, 0x380#11, 0x600#11] ∧
    (linkReset Params.usual).map Prim.encode = [0x000#11, 0x380#11, 0x3FE#11, 0x600#11] ∧
    (linkRcmd Params.usual).map Prim.encode = [0x000#11, 0x380#11, 0x3E7#11, 0x600#11] ∧
    (linkRd1 Params.usual).map Prim.encode = [0x000#11, 0x381#11, 0x500#11, 0x600#11] ∧
    (linkWreg 0x3A#8 Params.usual).map Prim.encode = [0x000#11, 0x380#11, 0x3E6#11, 0x33A#11, 0x600#11] ∧
    (linkWreg 0xBB#8 Params.usual).map Prim.encode = [0x000#11, 0x380#11, 0x3E6#11, 0x3BB#11, 0x600#11] ∧
    (linkTrigT Params.usual).map Prim.encode = [0x000#11, 0x380#11, 0x3F3#11, 0x600#11] ∧
    (linkTrigRh Params.usual).map Prim.encode = [0x000#11, 0x380#11, 0x3F5#11, 0x600#11] ∧
    (linkRd3 Params.usual).map Prim.encode = [0x000#11, 0x381#11, 0x400#11, 0x400#11, 0x500#11, 0x600#11] := by decide

theorem test_links_other_address :
    (linkProbe { Params.usual with sensorAddr := 0x27#7 }).map Prim.encode = [0x000#11, 0x34E#11, 0x600#11] ∧
    (linkRd1 { Params.usual with sensorAddr := 0x27#7 }).map Prim.encode = [0x000#11, 0x34F#11, 0x500#11, 0x600#11] := by
  decide

/-! ### CRC (95_test_vectors.md section 2.7) -/

theorem test_crc8_values :
    crc8 0x0000#16 = 0x00#8 ∧ crc8 0x0001#16 = 0x31#8 ∧ crc8 0x00DC#16 = 0x79#8 ∧ crc8 0x4E85#16 = 0x6B#8 ∧
    crc8 0x683A#16 = 0x7C#8 ∧ crc8 0x8000#16 = 0x23#8 ∧ crc8 0xBEEF#16 = 0x13#8 ∧ crc8 0xFFFF#16 = 0x2D#8 := by decide +kernel

theorem test_crc_valid : crcValid 0x683A#16 0x7C#8 = true ∧ crcValid 0xFFFF#16 0x2D#8 = true := by decide +kernel
theorem test_crc_flipped :
    crcRemainder 0x683A#16 0x7D#8 = 0x000001#24 ∧ crcValid 0xE83A#16 0x7C#8 = false ∧ crcValid 0x0000#16 0x01#8 = false := by
  decide +kernel

/-! ### Masking (95_test_vectors.md S8, section 2.6) -/

theorem test_merge_values :
    mergeResolution 0x3A#8 0xFF#8 = 0xBB#8 ∧ mergeResolution 0xBB#8 0x00#8 = 0x3A#8 ∧
    mergeResolution 0xFF#8 0x00#8 = 0x7E#8 ∧ mergeResolution 0xC5#8 0x80#8 = 0xC4#8 ∧
    mergeResolution 0x81#8 0x01#8 = 0x01#8 := by decide

theorem test_raw_masked : Raw.ofWord 0x683A#16 = ⟨0x6838#16, 2#2⟩ ∧ Raw.ofWord 0xFFFF#16 = ⟨0xFFFC#16, 3#2⟩ := by decide

/-! ### One step at each control position (95_test_vectors.md sections 2.1, 2.3 to 2.9) -/

/-- IDLE with the presets of sections 2.4 and 2.5: RAW = 0x00001234, RXBUF = 0x01000055, UREG = 0x00012211. -/
def idleAt (initDone : Bool) (es : List Event) : State :=
  { State.reset with
    initDone := initDone, raw := ⟨0x1234#16, 0#2⟩, rxbuf := Rxbuf.ofOne 0x55#8, uregRd := 0x11#8, uregWr := 0x22#8,
    uregRes := 0x01#8, newv := 0x22#8, nextTag := 7, inputs := es }

/-- The latch `w` accepted from `idleAt`, in phase `ph` with the request of that position pending as number 6. -/
def busyAt (w : Word) (ph : Phase) (port : Port) (es : List Event) : State :=
  let u : State := { idleAt (fieldOp w != 0x1#4) es with
    cmdl := w, lastOp := fieldOp w, phase := ph, activePort := port, cfgSnap := { Cfg.zero with port := port } }
  { u with pend := (expectedRequest u).map (fun r => ⟨6, r⟩) }

/-- The registers STATUS, RAW, RXBUF and UREG after a step. -/
def windowAfter : Result → Option (Word × Word × Word × Word)
  | .next t => some (t.statusWord, t.raw.toWord, t.rxbuf.toWord, t.uregWord)
  | .fault _ => none
  | .refused _ => none

theorem test_init_accepted :
    windowAfter (step (idleAt true [cmdWrite 0x00000001#32])) =
      some (0x00110001#32, 0x00001234#32, 0x01000055#32, 0x00012211#32) := by decide +kernel
theorem test_init_probe_timeout :
    windowAfter (step (busyAt 0x00000001#32 .txn1 5#4 [.transport 6 4#3 []])) =
      some (0x05010302#32, 0x00001234#32, 0x01000055#32, 0x00012211#32) := by decide +kernel
theorem test_init_done :
    windowAfter (step (busyAt 0x00000001#32 .txn1 5#4 [.transport 6 0#3 []])) =
      some (0x05010006#32, 0x00001234#32, 0x01000055#32, 0x00012211#32) := by decide +kernel
theorem test_softReset_accepted :
    windowAfter (step (idleAt true [cmdWrite 0x00000002#32])) =
      some (0x00320005#32, 0x00001234#32, 0x01000055#32, 0x00012211#32) := by decide +kernel
theorem test_softReset_wrong_length :
    windowAfter (step (busyAt 0x00000002#32 .txn1 0#4 [.transport 6 0#3 [0x05#8]])) =
      some (0x00020506#32, 0x00001234#32, 0x01000055#32, 0x00012211#32) := by decide +kernel
theorem test_readUreg_byte :
    windowAfter (step (busyAt 0x00000003#32 .txn2 0#4 [.transport 6 0#3 [0x3A#8]])) =
      some (0x00030006#32, 0x00001234#32, 0x0100003A#32, 0x0001223A#32) := by decide +kernel
theorem test_readUreg_timeout :
    windowAfter (step (busyAt 0x00000003#32 .txn2 0#4 [.transport 6 4#3 []])) =
      some (0x00030706#32, 0x00001234#32, 0x00000000#32, 0x00012200#32) := by decide +kernel
theorem test_writeUreg_accepted :
    windowAfter (step (idleAt true [cmdWrite 0xFFFF3A04#32])) =
      some (0x00340005#32, 0x00001234#32, 0x01000055#32, 0x00013A11#32) := by decide +kernel
theorem test_writeUreg_gated :
    windowAfter (step (idleAt false [cmdWrite 0xFFFF3A04#32])) =
      some (0x00040602#32, 0x00001234#32, 0x01000055#32, 0x00012211#32) := by decide +kernel
theorem test_getResolution_byte :
    windowAfter (step (busyAt 0x00000005#32 .txn2 0#4 [.transport 6 0#3 [0xBB#8]])) =
      some (0x00050006#32, 0x00001234#32, 0x010000BB#32, 0x008122BB#32) := by decide +kernel
theorem test_getResolution_invalid_state :
    windowAfter (step (busyAt 0x00000005#32 .txn2 0#4 [.transport 6 3#3 []])) =
      some (0x00050606#32, 0x00001234#32, 0x00000000#32, 0x00002200#32) := by decide +kernel
theorem test_setResolution_merge :
    windowAfter (step (busyAt 0x00008106#32 .txn2 0#4 [.transport 6 0#3 [0x3A#8]])) =
      some (0x00660005#32, 0x00001234#32, 0x0100003A#32, 0x0001BB3A#32) := by decide +kernel
theorem test_setResolution_read_timeout :
    windowAfter (step (busyAt 0x00008106#32 .txn2 0#4 [.transport 6 4#3 []])) =
      some (0x00060706#32, 0x00001234#32, 0x00000000#32, 0x00012200#32) := by decide +kernel
theorem test_measureT_mismatch_delivered :
    windowAfter (step (busyAt 0x00000007#32 .txn2 0#4 [.transport 6 0#3 [0x68#8, 0x3A#8, 0x7D#8]])) =
      some (0x0007000E#32, 0x00026838#32, 0x037D3A68#32, 0x00012211#32) := by decide +kernel
theorem test_measureT_two_bytes :
    windowAfter (step (busyAt 0x00000007#32 .txn2 0#4 [.transport 6 0#3 [0x68#8, 0x3A#8]])) =
      some (0x00070506#32, 0x00000000#32, 0x00000000#32, 0x00012211#32) := by decide +kernel
theorem test_measureRh_good :
    windowAfter (step (busyAt 0x00000008#32 .txn2 0#4 [.transport 6 0#3 [0x4E#8, 0x85#8, 0x6B#8]])) =
      some (0x0008001E#32, 0x00014E84#32, 0x036B854E#32, 0x00012211#32) := by decide +kernel
theorem test_measureRh_trigger_timeout :
    windowAfter (step (busyAt 0x00000008#32 .txn1 0#4 [.transport 6 4#3 []])) =
      some (0x00080706#32, 0x00000000#32, 0x00000000#32, 0x00012211#32) := by decide +kernel
theorem test_crcCheck_valid_before_init :
    windowAfter (step (idleAt false [cmdWrite 0x683A7C09#32])) =
      some (0x0009001A#32, 0x00001234#32, 0x01000055#32, 0x00012211#32) := by decide +kernel
theorem test_crcCheck_invalid :
    windowAfter (step (idleAt true [cmdWrite 0x683A7D09#32])) =
      some (0x0009000E#32, 0x00001234#32, 0x01000055#32, 0x00012211#32) := by decide +kernel
theorem test_reserved_word :
    windowAfter (step (idleAt true [cmdWrite 0x000000F7#32])) =
      some (0x00070406#32, 0x00001234#32, 0x01000055#32, 0x00012211#32) := by decide +kernel
theorem test_wait_elapsed :
    windowAfter (step (busyAt 0x00000007#32 .waitConv 0#4 [.elapsed 6])) =
      some (0x00570005#32, 0x00001234#32, 0x01000055#32, 0x00012211#32) := by decide +kernel
theorem test_dropped :
    windowAfter (step (busyAt 0x00000002#32 .txn1 0#4 [cmdWrite 0x00000003#32])) =
      some (0x00320025#32, 0x00001234#32, 0x01000055#32, 0x00012211#32) := by decide +kernel
theorem test_status_write :
    windowAfter (step { idleAt true [.host (.write (.sseqBase 0x08) 4 0xFFFFFFFF#32)] with done := true, drop := true, lastOp := 2#4 }) =
      some (0x00020004#32, 0x00001234#32, 0x01000055#32, 0x00012211#32) := by decide +kernel
theorem test_cfg_write_reserved_bits : (Cfg.ofWord 0xFFFFFFFF#32).word = 0x00F3FFFF#32 := by decide
theorem test_cfg_fields : Cfg.ofWord 0x00531615#32 = ⟨21#8, 22#8, true, true, 5#4⟩ := by decide
theorem test_access_shape :
    step (idleAt true [.host (.read (.sseqBase 0x06) 4)]) = .refused .accessNotAdmitted ∧
    step (idleAt true [.host (.read (.sseqBase 0x20) 4)]) = .refused .accessNotAdmitted ∧
    step (idleAt true [.host (.read (.sseqBase 0x04) 2)]) = .refused .accessNotAdmitted ∧
    step (idleAt true [.host (.write (.sseqBase 0x04) 1 0x01#32)]) = .refused .accessNotAdmitted := ⟨rfl, rfl, rfl, rfl⟩
/-- The address decides, however it is written: SSEQ_BASE + 0x04 as a number, and a window at 0x40 (R82). -/
theorem test_access_by_number :
    step (idleAt true [.host (.write (.number (hostAddress Config.params 0x04)) 4 0x01#32)]) =
      step (idleAt true [cmdWrite 0x01#32]) := by
  rw [step_hostWrite (rest := []) ⟨_, rfl, _, rfl, rfl⟩ (by decide) (by decide)]; rfl
theorem test_address_offsets :
    let p := { Params.usual with baseIndex := 2 }
    HostAddr.offset p (.number 0x44) = some 0x04 ∧ HostAddr.offset p (.number 0x5F) = some 0x1F ∧
    HostAddr.offset p (.number 0x3F) = none ∧ HostAddr.offset p (.number 0x60) = none ∧
    HostAddr.value p (.sseqBase 0x04) = 0x44 := by decide
theorem test_sseq_reset :
    windowAfter (step (busyAt 0x00000007#32 .waitConv 0#4 [.reset])) =
      some (0x00000000#32, 0x00000000#32, 0x00000000#32, 0x00000000#32) := by decide +kernel
theorem test_late_answer_discarded :
    step (idleAt true [.elapsed 6]) = .next (idleAt true []) := by rfl
theorem test_fetch_word_first :
    windowAfter (step (State.reset.withFetchWord 32 0x07)) =
      some (0x00070602#32, 0x00000000#32, 0x00000000#32, 0x00000000#32) := by decide +kernel
theorem test_setCfg_word : assemble (.setCfg 0 21 22 1 1) = some [.write (.sseqBase 0x00) 4 0x00031615#32] := by decide
theorem test_crcCheck_word : assemble (.crcCheck 0x683A 0x7D) = some [.write (.sseqBase 0x04) 4 0x683A7D09#32] := by decide

/-! ### Witnesses: states that meet the invariant -/

/-- `idleAt` meets the invariant. -/
theorem idleAt_inv (d : Bool) (es : List Event) : (idleAt d es).Inv where
  pendIsExpected := by rw [expected_idle _ rfl]; rfl
  busyIsPending := by simp [idleAt, State.reset]
  tagIssued := by simp [idleAt, State.reset]
  lastOpLatched := by simp only [idleAt]; decide
  busyDecoded := by simp [idleAt, State.reset]
  busyClean := by simp [idleAt, State.reset]
  crcOkChecked := fun _ => rfl
  gateHeld := by simp [idleAt, State.reset]
  portOfSnapshot := rfl
  writeBackShown := fun _ => rfl
  rawMasked := by show 0x1234#16 &&& 0x0003#16 = 0#16; decide
  rxbufShape := .inr (.inl ⟨0x55#8, rfl⟩)
  resMasked := by show 0x01#8 &&& 0x7E#8 = 0#8; decide

/-- `busyAt` at a position of its operation meets the invariant. -/
theorem busyAt_inv {w : Word} {ph : Phase} (o : Op) (port : Port) (es : List Event) (hr : fieldRsv w = 0#4)
    (ho : Op.ofCode (fieldOp w) = some o) (he : (expectedAt (some o) ph State.reset).isSome = true) :
    (busyAt w ph port es).Inv := by
  have key : ∀ u : State, (expectedAt (some o) ph u).isSome = true := by
    intro u; rw [← he]; cases o <;> cases ph <;> rfl
  have hph : ph ≠ .idle := by rintro rfl; cases o <;> cases he
  have hc : (busyAt w ph port es).curOp = some o := ho
  have hx : (busyAt w ph port es).pend.isSome = true := by
    show (Option.map _ (expectedAt (Op.ofCode (fieldOp w)) ph _)).isSome = true
    rw [Option.isSome_map, ho]
    exact key _
  refine ⟨?_, fun _ => hx, ?_, rfl, fun _ => hr, fun _ => ⟨rfl, rfl, rfl⟩, fun _ => rfl, fun _ => ?_, rfl, fun _ => rfl, ?_,
    .inr (.inl ⟨0x55#8, rfl⟩), ?_⟩
  · show Option.map Pending.req (Option.map _ (expectedRequest _)) = _
    rw [Option.map_map, show Pending.req ∘ (fun r => (⟨6, r⟩ : Pending)) = id from rfl, Option.map_id_fun]
    rfl
  · intro p hp
    obtain ⟨r, -, rfl⟩ := Option.map_eq_some_iff.mp hp
    show 6 < 7
    decide
  · rw [hc]
    show (fieldOp w != 0x1#4) = true ↔ _
    rw [code_of_ofCode _ _ ho]
    cases o <;> decide
  · show 0x1234#16 &&& 0x0003#16 = 0#16; decide
  · show 0x01#8 &&& 0x7E#8 = 0#8; decide

/-- A transport answer with number 6 at `busyAt` is an answer of the position. -/
theorem busyAt_answering {w : Word} {ph : Phase} (o : Op) (port : Port) (code : BitVec 3) (rx : List Byte)
    (hr : fieldRsv w = 0#4) (ho : Op.ofCode (fieldOp w) = some o)
    (he : (expectedAt (some o) ph State.reset).isSome = true) :
    Answering (busyAt w ph port [.transport 6 code rx]) o ph code rx [] := by
  have hi := busyAt_inv o port [.transport 6 code rx] hr ho he
  have hph : ph ≠ .idle := by rintro rfl; cases o <;> cases he
  obtain ⟨p, hp⟩ := pending_of_busy hi ((busy_eq_true_iff _).mpr hph)
  refine ⟨hi, ho, rfl, p, hp, ?_⟩
  obtain ⟨r, -, rfl⟩ := Option.map_eq_some_iff.mp hp
  rfl
/-! ### Encoding statements -/

theorem witness_EncodeOfDecodeIsTheWord : ∃ i, decode 0xFFFFFF07#32 = .ok i := ⟨_, test_decode_measureT⟩

theorem witness_DecodeReadsTheFieldsOfTheWord :
    (0x00000010#32).extractLsb' 4 4 ≠ 0#4 ∧ (0xFFFFFFF9#32).extractLsb' 4 4 ≠ 0#4 ∧
    (∀ k : Fin 16, ((0xFFFFFF00#32) ||| BitVec.ofNat 32 k.val).extractLsb' 4 4 = 0#4 ∧
      ((0xFFFFFF00#32) ||| BitVec.ofNat 32 k.val).extractLsb' 0 4 = BitVec.ofNat 4 k.val) := by decide

theorem witness_AddressBytesCarryAddressAndDirection : Params.usual.sensorAddr = 0x40#7 := rfl

/-- A step issues a transaction of operation `o`. -/
def IssuesTxn (s : State) (o : Op) : Prop :=
  s.Inv ∧ ∃ t, step s = .next t ∧ t.nextTag ≠ s.nextTag ∧ t.curOp = some o ∧
    ∃ tag port link tmo, t.pend = some ⟨tag, .txn port link tmo⟩

theorem witness_IssuedLinksAreTheSevenOfTheSpec :
    IssuesTxn (busyAt 0x00000001#32 .install 5#4 [.transport 6 0#3 []]) .init ∧
    IssuesTxn (idleAt true [cmdWrite 0x00000002#32]) .softReset ∧
    IssuesTxn (idleAt true [cmdWrite 0x00000003#32]) .readUreg ∧
    IssuesTxn (busyAt 0x00000003#32 .txn1 0#4 [.transport 6 0#3 []]) .readUreg ∧
    IssuesTxn (idleAt true [cmdWrite 0x00003A04#32]) .writeUreg ∧
    IssuesTxn (idleAt true [cmdWrite 0x00000005#32]) .getResolution ∧
    IssuesTxn (busyAt 0x00000005#32 .txn1 0#4 [.transport 6 0#3 []]) .getResolution ∧
    IssuesTxn (idleAt true [cmdWrite 0x00008106#32]) .setResolution ∧
    IssuesTxn (busyAt 0x00008106#32 .txn1 0#4 [.transport 6 0#3 []]) .setResolution ∧
    IssuesTxn (busyAt 0x00008106#32 .txn2 0#4 [.transport 6 0#3 [0x3A#8]]) .setResolution ∧
    IssuesTxn (idleAt true [cmdWrite 0x00000007#32]) .measureT ∧
    IssuesTxn (busyAt 0x00000007#32 .waitConv 0#4 [.elapsed 6]) .measureT ∧
    IssuesTxn (idleAt true [cmdWrite 0x00000008#32]) .measureRh ∧
    IssuesTxn (busyAt 0x00000008#32 .waitConv 0#4 [.elapsed 6]) .measureRh := by
  refine ⟨⟨busyAt_inv .init _ _ rfl rfl rfl, ?_⟩, ⟨idleAt_inv _ _, ?_⟩, ⟨idleAt_inv _ _, ?_⟩,
    ⟨busyAt_inv .readUreg _ _ rfl rfl rfl, ?_⟩, ⟨idleAt_inv _ _, ?_⟩, ⟨idleAt_inv _ _, ?_⟩,
    ⟨busyAt_inv .getResolution _ _ rfl rfl rfl, ?_⟩, ⟨idleAt_inv _ _, ?_⟩,
    ⟨busyAt_inv .setResolution _ _ rfl rfl rfl, ?_⟩, ⟨busyAt_inv .setResolution _ _ rfl rfl rfl, ?_⟩,
    ⟨idleAt_inv _ _, ?_⟩, ⟨busyAt_inv .measureT _ _ rfl rfl rfl, ?_⟩, ⟨idleAt_inv _ _, ?_⟩,
    ⟨busyAt_inv .measureRh _ _ rfl rfl rfl, ?_⟩⟩ <;>
  exact ⟨_, rfl, by decide, rfl, _, _, _, _, rfl⟩

/-- A write link and a read link. -/
theorem witness_IssuedLinksHaveTheFramedShape :
    IssuesTxn (idleAt true [cmdWrite 0x00003A04#32]) .writeUreg ∧
    IssuesTxn (busyAt 0x00000007#32 .waitConv 0#4 [.elapsed 6]) .measureT :=
  ⟨⟨idleAt_inv _ _, _, rfl, by decide, rfl, _, _, _, _, rfl⟩,
    busyAt_inv .measureT _ _ rfl rfl rfl, _, rfl, by decide, rfl, _, _, _, _, rfl⟩

theorem witness_IssuedPrimitivesAreTheFiveOfTheSpec :
    ∃ s t tag port link tmo, s.Inv ∧ step s = .next t ∧ t.nextTag ≠ s.nextTag ∧
      t.pend = some ⟨tag, .txn port link tmo⟩ ∧ primRA ∈ link :=
  ⟨busyAt 0x00000007#32 .waitConv 0#4 [.elapsed 6], _, _, _, _, _, busyAt_inv .measureT _ _ rfl rfl rfl, rfl, by decide,
    rfl, by decide⟩

/-- One request of each of the four kinds is issued. -/
theorem witness_TransactionsUseTheActivePortAndTimeout :
    (∃ s t tag port m a b c d e f, s.Inv ∧ step s = .next t ∧ t.nextTag ≠ s.nextTag ∧
      t.pend = some ⟨tag, .configure port m a b c d e f⟩) ∧
    (∃ s t tag port tmo, s.Inv ∧ step s = .next t ∧ t.nextTag ≠ s.nextTag ∧ t.pend = some ⟨tag, .install port tmo⟩) ∧
    (∃ s t tag port l tmo, s.Inv ∧ step s = .next t ∧ t.nextTag ≠ s.nextTag ∧ t.pend = some ⟨tag, .txn port l tmo⟩) ∧
    ∃ s t tag ms, s.Inv ∧ step s = .next t ∧ t.nextTag ≠ s.nextTag ∧ t.pend = some ⟨tag, .delay ms⟩ :=
  ⟨⟨idleAt true [cmdWrite 0x00000001#32], _, _, _, _, _, _, _, _, _, _, idleAt_inv _ _, rfl, by decide, rfl⟩,
    ⟨busyAt 0x00000001#32 .configure 5#4 [.transport 6 0#3 []], _, _, _, _, busyAt_inv .init _ _ rfl rfl rfl, rfl,
      by decide, rfl⟩,
    ⟨idleAt true [cmdWrite 0x00000002#32], _, _, _, _, _, idleAt_inv _ _, rfl, by decide, rfl⟩,
    busyAt 0x00000007#32 .txn1 0#4 [.transport 6 0#3 []], _, _, _, busyAt_inv .measureT _ _ rfl rfl rfl, rfl, by decide, rfl⟩

/-! ### Acceptance -/

theorem witness_StepRunsTheDecodedOperation :
    HostWrites (idleAt true [cmdWrite 0x683A7C09#32]).inputs 0x04 4 0x683A7C09#32 [] ∧
    decode 0x683A7C09#32 = .ok (.crcCheck 0x683A#16 0x7C#8) := ⟨⟨_, rfl, cmdWrite_writes _⟩, test_decode_crcCheck⟩

/-- BUSY; IDLE with a reserved word; IDLE before INIT with a bus operation; IDLE with a word that starts. -/
theorem witness_CommandChecksComeInOrder :
    (HostWrites (busyAt 0x00000002#32 .txn1 0#4 [cmdWrite 0x00000003#32]).inputs 0x04 4 0x00000003#32 [] ∧
      (busyAt 0x00000002#32 .txn1 0#4 [cmdWrite 0x00000003#32]).busy = true) ∧
    ((idleAt false []).busy = false ∧ decode 0x00000010#32 = .error .rsvNotZero ∧ decode 0x0000000A#32 = .error .opReserved) ∧
    ((idleAt false []).initDone = false ∧ ∀ o ∈ [Op.softReset, .readUreg, .writeUreg, .getResolution, .setResolution,
        .measureT, .measureRh], ∃ i, decode (BitVec.ofNat 32 o.code.toNat) = .ok i ∧ i.op = o) ∧
    ((idleAt true []).initDone = true ∧ (∃ i, decode 0x00000001#32 = .ok i ∧ i.op = .init) ∧
      (∃ i, decode 0x00000009#32 = .ok i ∧ i.op = .crcCheck)) := by
  refine ⟨⟨⟨_, rfl, cmdWrite_writes _⟩, rfl⟩, ⟨rfl, by decide, by decide⟩, ⟨rfl, ?_⟩, rfl, ⟨.init 0#24, by decide, rfl⟩, .crcCheck 0#16 0#8, by decide, rfl⟩
  intro o ho
  fin_cases ho <;> exact ⟨_, rfl, rfl⟩

theorem witness_ReservedWordCompletesInvalidArg :
    HostWrites (idleAt true [cmdWrite 0x00000019#32]).inputs 0x04 4 0x00000019#32 [] ∧
    (idleAt true [cmdWrite 0x00000019#32]).busy = false ∧ decode 0x00000019#32 = .error .rsvNotZero := by
  refine ⟨⟨_, rfl, cmdWrite_writes _⟩, rfl, by decide⟩

theorem witness_GateCompletesBusOperationsInvalidState :
    (idleAt false []).busy = false ∧ (idleAt false []).initDone = false ∧
    (Instr.measureRh 0#24).op ∈ [Op.softReset, .readUreg, .writeUreg, .getResolution, .setResolution, .measureT, .measureRh] ∧
    (Instr.softReset 0#24).op ∈ [Op.softReset, .readUreg, .writeUreg, .getResolution, .setResolution, .measureT, .measureRh] ∧
    (Instr.init 0#24).op = .init ∧ (Instr.crcCheck 0#16 0#8).op = .crcCheck := by decide

/-- An accepted word; a dropped word, an answer that completes and no event; reset. -/
theorem witness_AcceptedWordIsLatchedAndLastOpFollows :
    (∃ t, step (idleAt true [cmdWrite 0x00000019#32]) = .next t) ∧
    (∃ t, step (busyAt 0x00000002#32 .txn1 0#4 [cmdWrite 0x00000003#32]) = .next t) ∧
    (∃ t, step (busyAt 0x00000002#32 .txn1 0#4 [.transport 6 0#3 []]) = .next t) ∧
    (∃ t, step (idleAt true []) = .next t) ∧ ∃ t, step (busyAt 0x00000002#32 .txn1 0#4 [.reset]) = .next t :=
  ⟨⟨_, rfl⟩, ⟨_, rfl⟩, ⟨_, rfl⟩, ⟨_, rfl⟩, _, rfl⟩

/-! ### The operations -/

theorem witness_InitStartSnapshotsAndConfigures : (idleAt false []).busy = false ∧ (idleAt true []).busy = false := ⟨rfl, rfl⟩

/-- In each phase: a good answer, code 4 and code 7; in TXN_1 also an OK answer with a byte. -/
theorem witness_InitContinuesToConfigInstallNotFoundOrDone :
    (∀ code rx, Answering (busyAt 0x00000001#32 .configure 5#4 [.transport 6 code rx]) .init .configure code rx []) ∧
    (∀ code rx, Answering (busyAt 0x00000001#32 .install 5#4 [.transport 6 code rx]) .init .install code rx []) ∧
    (∀ code rx, Answering (busyAt 0x00000001#32 .txn1 5#4 [.transport 6 code rx]) .init .txn1 code rx []) :=
  ⟨fun c x => busyAt_answering .init _ c x rfl rfl rfl, fun c x => busyAt_answering .init _ c x rfl rfl rfl,
    fun c x => busyAt_answering .init _ c x rfl rfl rfl⟩

/-- Every answer, good or bad, is possible at the position. -/
theorem witness_SoftResetSendsOneWriteAndReportsItsOutcome :
    ((idleAt true []).busy = false ∧ (idleAt true []).initDone = true ∧ (idleAt false []).initDone = false) ∧
    ∀ code rx, Answering (busyAt 0x00000002#32 .txn1 0#4 [.transport 6 code rx]) .softReset .txn1 code rx [] :=
  ⟨⟨rfl, rfl, rfl⟩, fun c x => busyAt_answering .softReset _ c x rfl rfl rfl⟩

theorem witness_ReadUregReadsOneByte :
    ((idleAt true []).busy = false ∧ (idleAt true []).initDone = true) ∧
    (∀ code rx, Answering (busyAt 0x00000003#32 .txn1 0#4 [.transport 6 code rx]) .readUreg .txn1 code rx []) ∧
    ∀ code rx, Answering (busyAt 0x00000003#32 .txn2 0#4 [.transport 6 code rx]) .readUreg .txn2 code rx [] :=
  ⟨⟨rfl, rfl⟩, fun c x => busyAt_answering .readUreg _ c x rfl rfl rfl, fun c x => busyAt_answering .readUreg _ c x rfl rfl rfl⟩

theorem witness_WriteUregSendsTheByteUnmasked :
    ((idleAt true []).busy = false ∧ (idleAt true []).initDone = true) ∧
    ∀ code rx, Answering (busyAt 0x00002204#32 .txn1 0#4 [.transport 6 code rx]) .writeUreg .txn1 code rx [] :=
  ⟨⟨rfl, rfl⟩, fun c x => busyAt_answering .writeUreg _ c x rfl rfl rfl⟩

theorem witness_GetResolutionMasksTheByteRead :
    ((idleAt true []).busy = false ∧ (idleAt true []).initDone = true) ∧
    (∀ code rx, Answering (busyAt 0x00000005#32 .txn1 0#4 [.transport 6 code rx]) .getResolution .txn1 code rx []) ∧
    ∀ code rx, Answering (busyAt 0x00000005#32 .txn2 0#4 [.transport 6 code rx]) .getResolution .txn2 code rx [] :=
  ⟨⟨rfl, rfl⟩, fun c x => busyAt_answering .getResolution _ c x rfl rfl rfl,
    fun c x => busyAt_answering .getResolution _ c x rfl rfl rfl⟩

theorem witness_SetResolutionReadsMergesAndWritesBack :
    ((idleAt true []).busy = false ∧ (idleAt true []).initDone = true) ∧
    (∀ code rx, Answering (busyAt 0x00008106#32 .txn1 0#4 [.transport 6 code rx]) .setResolution .txn1 code rx []) ∧
    (∀ code rx, Answering (busyAt 0x00008106#32 .txn2 0#4 [.transport 6 code rx]) .setResolution .txn2 code rx []) ∧
    ∀ code rx, Answering (busyAt 0x00008106#32 .txn3 0#4 [.transport 6 code rx]) .setResolution .txn3 code rx [] :=
  ⟨⟨rfl, rfl⟩, fun c x => busyAt_answering .setResolution _ c x rfl rfl rfl,
    fun c x => busyAt_answering .setResolution _ c x rfl rfl rfl,
    fun c x => busyAt_answering .setResolution _ c x rfl rfl rfl⟩

theorem witness_MergedResolutionKeepsTheReservedBits : (0xFF#8 : Byte) &&& 0x81#8 = 0x81#8 &&& 0x81#8 := by decide

theorem witness_MeasurementTriggersWaitsReadsAndChecks :
    ((idleAt true []).busy = false ∧ (idleAt true []).initDone = true) ∧
    (∀ code rx, Answering (busyAt 0x00000007#32 .txn1 0#4 [.transport 6 code rx]) .measureT .txn1 code rx []) ∧
    (∀ code rx, Answering (busyAt 0x00000008#32 .txn1 0#4 [.transport 6 code rx]) .measureRh .txn1 code rx []) ∧
    (∃ p, (busyAt 0x00000007#32 .waitConv 0#4 [.elapsed 6]).Inv ∧
      (busyAt 0x00000007#32 .waitConv 0#4 [.elapsed 6]).pend = some p ∧ p.tag = 6) ∧
    (∃ p, (busyAt 0x00000008#32 .waitConv 0#4 [.elapsed 6]).Inv ∧
      (busyAt 0x00000008#32 .waitConv 0#4 [.elapsed 6]).pend = some p ∧ p.tag = 6) ∧
    (∀ code rx, Answering (busyAt 0x00000007#32 .txn2 0#4 [.transport 6 code rx]) .measureT .txn2 code rx []) ∧
    ∀ code rx, Answering (busyAt 0x00000008#32 .txn2 0#4 [.transport 6 code rx]) .measureRh .txn2 code rx [] :=
  ⟨⟨rfl, rfl⟩, fun c x => busyAt_answering .measureT _ c x rfl rfl rfl,
    fun c x => busyAt_answering .measureRh _ c x rfl rfl rfl, ⟨_, busyAt_inv .measureT _ _ rfl rfl rfl, rfl, rfl⟩,
    ⟨_, busyAt_inv .measureRh _ _ rfl rfl rfl, rfl, rfl⟩, fun c x => busyAt_answering .measureT _ c x rfl rfl rfl,
    fun c x => busyAt_answering .measureRh _ c x rfl rfl rfl⟩

theorem witness_CrcCheckCompletesInItsAcceptStep : (idleAt false []).busy = false ∧ (idleAt true []).busy = false := ⟨rfl, rfl⟩

/-- While IDLE and while BUSY; for WRITE_UREG the boundary offsets beside 0x15. -/
theorem witness_AcceptStepLeavesTheRestUnchanged :
    (∃ t, exec (.writeUreg 0x3A#8 0#16) (idleAt true []) = .next t) ∧
    (∃ t, exec (.writeUreg 0x3A#8 0#16) (busyAt 0x00000002#32 .txn1 0#4 []) = .next t) ∧
    (∃ t, exec (.init 0#24) (idleAt true []) = .next t) ∧ (∃ t, exec (.crcCheck 0#16 0#8) (idleAt true []) = .next t) ∧
    ∀ off ∈ [0x03, 0x0C, 0x14, 0x16], ¬ (0x04 ≤ off ∧ off < 0x0C) ∧ off ≠ 0x15 :=
  ⟨⟨_, rfl⟩, ⟨_, rfl⟩, ⟨_, rfl⟩, ⟨_, rfl⟩, by decide⟩

/-! ### Answers -/

/-- Codes 5 and 7; a transaction with its count and beside it; a pending transaction, Configure and Delay. -/
theorem witness_AnswersAreNormalisedFirst :
    (4 < (5#3).toNat ∧ 4 < (7#3).toNat) ∧
    ([0x3A#8].length = linkReads (linkRd1 Params.usual) ∧ [0x3A#8, 0x00#8].length ≠ linkReads (linkRd1 Params.usual) ∧
      ([] : List Byte).length ≠ linkReads (linkRd1 Params.usual)) ∧
    (∃ port link tmo, (busyAt 0x00000003#32 .txn2 0#4 [.transport 6 5#3 []]).pend = some ⟨6, .txn port link tmo⟩) ∧
    (∃ tmo, (busyAt 0x00000001#32 .install 5#4 [.transport 6 0#3 []]).pend = some ⟨6, .install 5#4 tmo⟩) ∧
    ∃ ms, (busyAt 0x00000007#32 .waitConv 0#4 [.elapsed 6]).pend = some ⟨6, .delay ms⟩ :=
  ⟨by decide, by decide, ⟨_, _, _, rfl⟩, ⟨_, rfl⟩, _, rfl⟩

/-- A refused trigger, a probe that times out, a read of the wrong length and an unassigned code. -/
theorem witness_FailedAnswerEndsTheOperationInThatStep :
    (∃ p, (busyAt 0x00000007#32 .txn1 0#4 [.transport 6 1#3 []]).pend = some p ∧ p.tag = 6 ∧ ∀ ms, p.req ≠ .delay ms) ∧
    (∃ p, (busyAt 0x00000001#32 .configure 5#4 [.transport 6 7#3 []]).pend = some p ∧ p.tag = 6 ∧ ∀ ms, p.req ≠ .delay ms) ∧
    ∃ p, (busyAt 0x00000003#32 .txn2 0#4 [.transport 6 0#3 []]).Inv ∧
      (busyAt 0x00000003#32 .txn2 0#4 [.transport 6 0#3 []]).pend = some p ∧ p.tag = 6 ∧ (∀ ms, p.req ≠ .delay ms) ∧
      ¬ (0#3 = 0#3 ∧ ∀ port link tmo, p.req = .txn port link tmo → ([] : List Byte).length = linkReads link) := by
  refine ⟨⟨_, rfl, rfl, by simp [txnRequest]⟩, ⟨_, rfl, rfl, by simp [configureRequest]⟩, _, busyAt_inv .readUreg _ _ rfl rfl rfl, rfl, rfl, by simp [txnRequest], ?_⟩
  rintro ⟨-, h⟩
  have := h _ _ _ rfl
  simp at this

theorem witness_CompletionCodesByOperation :
    (∃ t, (busyAt 0x00000001#32 .txn1 5#4 [.transport 6 4#3 []]).Inv ∧
      step (busyAt 0x00000001#32 .txn1 5#4 [.transport 6 4#3 []]) = .next t ∧ t.busy = false) ∧
    ∃ t, (busyAt 0x00000002#32 .txn1 5#4 [.transport 6 4#3 []]).Inv ∧
      step (busyAt 0x00000002#32 .txn1 5#4 [.transport 6 4#3 []]) = .next t ∧ t.busy = false :=
  ⟨⟨_, busyAt_inv .init _ _ rfl rfl rfl, rfl, rfl⟩, _, busyAt_inv .softReset _ _ rfl rfl rfl, rfl, rfl⟩

theorem witness_ConversionWaitStandsBetweenTriggerAndRead :
    (∃ t, (busyAt 0x00000008#32 .waitConv 0#4 [.elapsed 6]).Inv ∧
      step (busyAt 0x00000008#32 .waitConv 0#4 [.elapsed 6]) = .next t ∧ t.curOp = some .measureRh ∧ t.phase = .txn2) ∧
    ∃ t, (busyAt 0x00000007#32 .txn1 0#4 [.transport 6 0#3 []]).Inv ∧
      step (busyAt 0x00000007#32 .txn1 0#4 [.transport 6 0#3 []]) = .next t ∧ t.curOp = some .measureT ∧ t.phase = .waitConv :=
  ⟨⟨_, busyAt_inv .measureRh _ _ rfl rfl rfl, rfl, rfl, rfl⟩, _, busyAt_inv .measureT _ _ rfl rfl rfl, rfl, rfl, rfl⟩

/-! ### Host accesses -/

/-- Admitted and not admitted shapes, the events of both kinds at every offset, the first address above the window, and the
last one below a base that is not 0. -/
theorem witness_OnlyAlignedWordAccessesAreAdmitted :
    ((∀ off ∈ [0x00, 0x1C], off % 4 = 0 ∧ off ≤ 0x1C) ∧
      ∀ a ∈ [(0x00, 1), (0x00, 2), (0x00, 8), (0x01, 4), (0x06, 4), (0x1D, 4), (0x20, 4)],
        ¬ (a.2 = 4 ∧ a.1 % 4 = 0 ∧ a.1 ≤ 0x1C)) ∧
    (∀ (off size : Nat) (v : Word), HostReads (idleAt true [.host (.read (.sseqBase off) size)]).inputs off size [] ∧
      HostWrites (idleAt true [.host (.write (.sseqBase off) size v)]).inputs off size v []) ∧
    Config.params.sseqBase + 0x20 ≤ (HostAddr.number (Config.params.sseqBase + 0x20)).value Config.params ∧
    (HostAddr.number 0x3F).value { Params.usual with baseIndex := 2 } < ({ Params.usual with baseIndex := 2 } : Params).sseqBase :=
  ⟨by decide, fun off size v => ⟨⟨_, rfl, Event.reads_sseqBase off size⟩, _, rfl, Event.writes_sseqBase off size v⟩, Nat.le_refl _, by decide⟩

theorem witness_HostReadsHaveNoSideEffect :
    (∀ off ∈ [0x00, 0x04, 0x08, 0x0C, 0x10, 0x14, 0x18, 0x1C], off % 4 = 0 ∧ off ≤ 0x1C) ∧
    ∀ off, ∃ rest, HostReads (idleAt true [.host (.read (.sseqBase off) 4), .host (.read (.sseqBase off) 4)]).inputs off 4 rest ∧
      HostReads rest off 4 [] :=
  ⟨by decide, fun off => ⟨_, ⟨_, rfl, Event.reads_sseqBase off 4⟩, _, rfl, Event.reads_sseqBase off 4⟩⟩

/-- CFG, STATUS and CMD twice each, an ignored offset, and CMD while IDLE and while BUSY, twice. -/
theorem witness_HostWritesActByRegister :
    (∀ off v, ∃ rest, HostWrites (idleAt true [.host (.write (.sseqBase off) 4 v), .host (.write (.sseqBase off) 4 v)]).inputs
      off 4 v rest ∧ HostWrites rest off 4 v []) ∧
    (idleAt true []).busy = false ∧ (busyAt 0x00000002#32 .txn1 0#4 []).busy = true ∧
    (∃ t, step (idleAt true [cmdWrite 0x02#32, cmdWrite 0x02#32]) = .next t ∧ t.busy = true) ∧
    ∃ t, step (idleAt true [cmdWrite 0x09#32, cmdWrite 0x09#32]) = .next t ∧ t.busy = false :=
  ⟨fun off v => ⟨_, ⟨_, rfl, Event.writes_sseqBase off 4 v⟩, _, rfl, Event.writes_sseqBase off 4 v⟩, rfl, rfl, ⟨_, rfl, rfl⟩,
    _, rfl, rfl⟩

theorem witness_ReservedOffsetsReadZeroAndIgnoreWrites :
    HostReads (idleAt true [.host (.read (.sseqBase 0x18) 4)]).inputs 0x18 4 [] ∧
    HostWrites (idleAt true [.host (.write (.sseqBase 0x1C) 4 0xFFFFFFFF#32)]).inputs 0x1C 4 0xFFFFFFFF#32 [] :=
  ⟨⟨_, rfl, Event.reads_sseqBase _ _⟩, _, rfl, Event.writes_sseqBase _ _ _⟩

theorem witness_StatusReadsItsFieldsAndClearsOnWrite :
    HostWrites (idleAt true [.host (.write (.sseqBase 0x08) 4 0x20#32)]).inputs 0x08 4 0x20#32 [] ∧
    (0x20#32).getLsbD 5 = true ∧ (0x20#32).getLsbD 1 = false ∧ (0x02#32).getLsbD 1 = true :=
  ⟨⟨_, rfl, Event.writes_sseqBase _ _ _⟩, by decide⟩

theorem witness_RegistersReadTheirFields :
    HostWrites (idleAt true [.host (.write (.sseqBase 0x00) 4 0xFFFFFFFF#32)]).inputs 0x00 4 0xFFFFFFFF#32 [] :=
  ⟨_, rfl, Event.writes_sseqBase _ _ _⟩

theorem witness_ByteLanesAreLittleEndian :
    (∃ w, registerWord (idleAt true []) 0x00 = some w) ∧ (∃ w, registerWord (idleAt true []) 0x1C = some w) := ⟨⟨_, rfl⟩, _, rfl⟩

theorem witness_HostStatementsExpandToTheirCommandWords :
    stmtInstr (.writeUreg 0xFF) = some (.writeUreg 0xFF#8 0#16) ∧ Stmt.wf (.writeUreg 0xFF) = true ∧
    (0 ≤ 0xFF ∧ 0xFF ≤ 0xFF ∧ 0xFFFF ≤ 0xFFFF ∧ 0xF ≤ 0xF ∧ 1 ≤ 1) ∧ (0xFF < 0x100 ∧ 0xFFFF < 0x10000) ∧
    (0xF < 16 ∧ 0xFF < 256 ∧ 1 < 2) := by decide

/-! ### Invariants and whole-machine rules -/

theorem witness_InvariantHoldsAfterReset :
    ∃ t, step (busyAt 0x00000007#32 .waitConv 0#4 [.reset]) = .next t := ⟨_, rfl⟩

/-- A completing, an issuing and a dropping step from states that meet the invariant. -/
theorem witness_EveryStepKeepsTheInvariant :
    (∃ t, (busyAt 0x00000007#32 .txn2 0#4 [.transport 6 0#3 [0x68#8, 0x3A#8, 0x7C#8]]).Inv ∧
      step (busyAt 0x00000007#32 .txn2 0#4 [.transport 6 0#3 [0x68#8, 0x3A#8, 0x7C#8]]) = .next t) ∧
    (∃ t, (idleAt true [cmdWrite 0x01#32]).Inv ∧ step (idleAt true [cmdWrite 0x01#32]) = .next t) ∧
    ∃ t, (busyAt 0x00000002#32 .txn1 0#4 [cmdWrite 0x03#32]).Inv ∧
      step (busyAt 0x00000002#32 .txn1 0#4 [cmdWrite 0x03#32]) = .next t :=
  ⟨⟨_, busyAt_inv .measureT _ _ rfl rfl rfl, rfl⟩, ⟨_, idleAt_inv _ _, rfl⟩, _, busyAt_inv .softReset _ _ rfl rfl rfl, rfl⟩

theorem witness_NoStepFaultsAndNoErrorIsSticky :
    (idleAt true [cmdWrite 0x02#32]).Inv ∧ HostWrites (idleAt true [cmdWrite 0x02#32]).inputs 0x04 4 0x02#32 [] ∧
    (idleAt true [cmdWrite 0x02#32]).busy = false := ⟨idleAt_inv _ _, ⟨_, rfl, cmdWrite_writes _⟩, rfl⟩

theorem witness_NoHostActionCancelsAnOperation :
    (∃ t, (busyAt 0x00000002#32 .txn1 0#4 [.host (.write (.sseqBase 0x08) 4 0x22#32)]).Inv ∧
      (busyAt 0x00000002#32 .txn1 0#4 [.host (.write (.sseqBase 0x08) 4 0x22#32)]).busy = true ∧
      step (busyAt 0x00000002#32 .txn1 0#4 [.host (.write (.sseqBase 0x08) 4 0x22#32)]) = .next t) ∧
    ∃ t, (busyAt 0x00000002#32 .txn1 0#4 [.transport 6 0#3 []]).Inv ∧
      step (busyAt 0x00000002#32 .txn1 0#4 [.transport 6 0#3 []]) = .next t ∧ t.busy = false :=
  ⟨⟨_, busyAt_inv .softReset _ _ rfl rfl rfl, rfl, rfl⟩, _, busyAt_inv .softReset _ _ rfl rfl rfl, rfl, rfl⟩

theorem witness_IdleSequencerChangesNothingByItself :
    ∃ t, (idleAt true [.elapsed 6]).busy = false ∧ (idleAt true [.elapsed 6]).pend = none ∧
      step (idleAt true [.elapsed 6]) = .next t ∧
      (∀ off v rest, ¬ HostWrites (idleAt true [.elapsed 6]).inputs off 4 v rest) ∧
      (∀ rest, (idleAt true [.elapsed 6]).inputs ≠ .reset :: rest) := by
  refine ⟨_, rfl, rfl, rfl, ?_, by simp [idleAt]⟩
  intro off v rest h
  obtain ⟨a, ha⟩ := h.event
  cases ha

/-- INIT accepted; INIT done; INIT_DONE cleared by INIT and by reset; INIT the only operation that starts at 0. -/
theorem witness_InitDoneChangesOnlyByInitAndReset :
    (∃ t, step (idleAt true [cmdWrite 0x01#32]) = .next t ∧ decode 0x01#32 = .ok (.init 0#24) ∧ t.initDone = false) ∧
    (∃ t, (busyAt 0x00000001#32 .txn1 5#4 [.transport 6 0#3 []]).Inv ∧
      step (busyAt 0x00000001#32 .txn1 5#4 [.transport 6 0#3 []]) = .next t ∧ t.initDone = true ∧ t.busy = false ∧
      t.err = .ok ∧ t.done = true) ∧
    (∃ t, step (idleAt true [.reset]) = .next t ∧ t.initDone = false) ∧
    ∃ t, (idleAt false [cmdWrite 0x01#32]).Inv ∧ step (idleAt false [cmdWrite 0x01#32]) = .next t ∧ t.busy = true :=
  ⟨⟨_, rfl, by decide, rfl⟩, ⟨_, busyAt_inv .init _ _ rfl rfl rfl, rfl, rfl, rfl, rfl, rfl⟩, ⟨_, rfl, rfl⟩,
    _, idleAt_inv _ _, rfl, rfl⟩

/-- Set; cleared by STATUS; cleared by reset; kept by acceptance. -/
theorem witness_DropIsStickyUntilWrittenOrReset :
    (∃ t, step (busyAt 0x00000002#32 .txn1 0#4 [cmdWrite 0x03#32]) = .next t ∧ t.drop = true) ∧
    (∃ t, step { idleAt true [.host (.write (.sseqBase 0x08) 4 0x20#32)] with drop := true } = .next t ∧ t.drop = false) ∧
    (∃ t, step { idleAt true [.reset] with drop := true } = .next t ∧ t.drop = false) ∧
    ∃ t, step { idleAt true [cmdWrite 0x02#32] with drop := true } = .next t ∧ t.drop = true :=
  ⟨⟨_, rfl, rfl⟩, ⟨_, rfl, rfl⟩, ⟨_, rfl, rfl⟩, _, rfl, rfl⟩

theorem witness_OnlyMeasurementsWriteRaw :
    (∃ t, (busyAt 0x00000007#32 .txn1 0#4 [.transport 6 4#3 []]).Inv ∧
      step (busyAt 0x00000007#32 .txn1 0#4 [.transport 6 4#3 []]) = .next t ∧
      t.raw ≠ (busyAt 0x00000007#32 .txn1 0#4 [.transport 6 4#3 []]).raw) ∧
    ∃ t, step (idleAt true [.reset]) = .next t ∧ t.raw ≠ (idleAt true [.reset]).raw :=
  ⟨⟨_, busyAt_inv .measureT _ _ rfl rfl rfl, rfl, by decide⟩, _, rfl, by decide⟩

theorem witness_RxbufFollowsTheLastRead :
    (∃ t, (busyAt 0x00000003#32 .txn2 0#4 [.transport 6 0#3 [0x3A#8]]).Inv ∧
      step (busyAt 0x00000003#32 .txn2 0#4 [.transport 6 0#3 [0x3A#8]]) = .next t ∧
      t.rxbuf ≠ (busyAt 0x00000003#32 .txn2 0#4 [.transport 6 0#3 [0x3A#8]]).rxbuf) ∧
    ∃ t, (busyAt 0x00000008#32 .txn1 0#4 [.transport 6 4#3 []]).Inv ∧
      step (busyAt 0x00000008#32 .txn1 0#4 [.transport 6 4#3 []]) = .next t ∧
      t.rxbuf ≠ (busyAt 0x00000008#32 .txn1 0#4 [.transport 6 4#3 []]).rxbuf :=
  ⟨⟨_, busyAt_inv .readUreg _ _ rfl rfl rfl, rfl, by decide⟩, _, busyAt_inv .measureRh _ _ rfl rfl rfl, rfl, by decide⟩

/-- RD by a read; WR by WRITE_UREG and by the write-back; RES by GET_RESOLUTION. -/
theorem witness_UregFieldsChangeOnlyByTheirOperations :
    (∃ t, (busyAt 0x00000003#32 .txn1 0#4 [.transport 6 4#3 []]).Inv ∧
      step (busyAt 0x00000003#32 .txn1 0#4 [.transport 6 4#3 []]) = .next t ∧ t.uregRd ≠ 0x11#8) ∧
    (∃ t, (idleAt true [cmdWrite 0x00003A04#32]).Inv ∧ step (idleAt true [cmdWrite 0x00003A04#32]) = .next t ∧
      t.uregWr ≠ 0x22#8 ∧ t.nextTag ≠ 7) ∧
    (∃ t, (busyAt 0x00008106#32 .txn2 0#4 [.transport 6 0#3 [0x3A#8]]).Inv ∧
      step (busyAt 0x00008106#32 .txn2 0#4 [.transport 6 0#3 [0x3A#8]]) = .next t ∧ t.uregWr ≠ 0x22#8 ∧ t.nextTag ≠ 7) ∧
    ∃ t, (busyAt 0x00000005#32 .txn2 0#4 [.transport 6 0#3 [0xBB#8]]).Inv ∧
      step (busyAt 0x00000005#32 .txn2 0#4 [.transport 6 0#3 [0xBB#8]]) = .next t ∧ t.uregRes ≠ 0x01#8 :=
  ⟨⟨_, busyAt_inv .readUreg _ _ rfl rfl rfl, rfl, by decide⟩, ⟨_, idleAt_inv _ _, rfl, by decide, by decide⟩,
    ⟨_, busyAt_inv .setResolution _ _ rfl rfl rfl, rfl, by decide, by decide⟩,
    _, busyAt_inv .getResolution _ _ rfl rfl rfl, rfl, by decide⟩

theorem witness_ActivePortChangesOnlyByInit :
    (∃ t, (idleAt true [cmdWrite 0x01#32]).Inv ∧ step (idleAt true [cmdWrite 0x01#32]) = .next t ∧
      decode 0x01#32 = .ok (.init 0#24)) ∧
    (∃ t, (idleAt true [cmdWrite 0x02#32]).Inv ∧ step (idleAt true [cmdWrite 0x02#32]) = .next t ∧
      decode 0x02#32 ≠ .ok (.init 0#24)) ∧
    ∃ t, (busyAt 0x00008106#32 .txn2 0#4 [.transport 6 0#3 [0x3A#8]]).Inv ∧
      step (busyAt 0x00008106#32 .txn2 0#4 [.transport 6 0#3 [0x3A#8]]) = .next t ∧ t.newv ≠ 0x22#8 :=
  ⟨⟨_, idleAt_inv _ _, rfl, by decide⟩, ⟨_, idleAt_inv _ _, rfl, by decide⟩,
    _, busyAt_inv .setResolution _ _ rfl rfl rfl, rfl, by decide⟩

/-- A step that answers, one that is refused, and one that faults (in a state no run reaches). -/
theorem witness_RunningOperationDoesNotReadCfg :
    (∃ t, step (busyAt 0x00000007#32 .waitConv 0#4 [.elapsed 6]) = .next t) ∧
    step (busyAt 0x00000007#32 .waitConv 0#4 [.transport 6 0#3 []]) = .refused .responderNotOwner ∧
    step { idleAt true [.elapsed 6] with pend := some ⟨6, delayRequest⟩ } = .fault .noContinuation ∧
    (∀ o ∈ [Op.softReset, .readUreg, .writeUreg, .getResolution, .setResolution, .measureT, .measureRh, .crcCheck],
      ∃ i, decode (BitVec.ofNat 32 o.code.toNat) = .ok i ∧ i.op = o ∧ i.op ≠ .init) := by
  refine ⟨⟨_, rfl⟩, rfl, rfl, ?_⟩
  intro o ho
  fin_cases ho <;> exact ⟨_, rfl, rfl, by decide⟩

theorem witness_ResetZeroesEverything :
    (busyAt 0x00000007#32 .waitConv 0#4 [.reset]).inputs = .reset :: [] ∧
    HostWrites (idleAt true [cmdWrite 0xFFFFFFFF#32]).inputs 0x04 4 0xFFFFFFFF#32 [] ∧
    ∃ t, (idleAt true [cmdWrite 0xFFFFFFFF#32]).busy = false ∧ step (idleAt true [cmdWrite 0xFFFFFFFF#32]) = .next t :=
  ⟨rfl, ⟨_, rfl, cmdWrite_writes _⟩, _, rfl, rfl⟩

/-- Reset in WAIT_CONV, one further step, then the abandoned ELAPSED. -/
theorem witness_AbandonedRequestIsNeverAnswered :
    ∃ p t, (busyAt 0x00000007#32 .waitConv 0#4 [.reset, cmdWrite 0x01#32, .elapsed 6]).Inv ∧
      (busyAt 0x00000007#32 .waitConv 0#4 [.reset, cmdWrite 0x01#32, .elapsed 6]).pend = some p ∧ p.tag = 6 ∧
      core.run 2 (busyAt 0x00000007#32 .waitConv 0#4 [.reset, cmdWrite 0x01#32, .elapsed 6]) = .next t ∧
      t.inputs = .elapsed 6 :: [] ∧ t.busy = true :=
  ⟨_, _, busyAt_inv .measureT _ _ rfl rfl rfl, rfl, rfl, rfl, rfl, rfl⟩

/-- No request; another number; and the two answers from the wrong agent. -/
theorem witness_OnlyTheOwnersAnswerIsTaken :
    ((idleAt true [.elapsed 6]).pend = none) ∧
    (∃ p, (busyAt 0x00000002#32 .txn1 0#4 [.transport 5 0#3 []]).pend = some p ∧ p.tag ≠ 5) ∧
    (∃ p, (busyAt 0x00000002#32 .txn1 0#4 [.elapsed 6]).pend = some p ∧ p.tag = 6 ∧ ∀ ms, p.req ≠ .delay ms) ∧
    ∃ p ms, (busyAt 0x00000007#32 .waitConv 0#4 [.transport 6 0#3 []]).pend = some p ∧ p.tag = 6 ∧ p.req = .delay ms :=
  ⟨rfl, ⟨_, rfl, by decide⟩, ⟨_, rfl, rfl, by simp [txnRequest]⟩, _, _, rfl, rfl, rfl⟩

/-- The first and the last answer of a measurement, and its wait. -/
theorem witness_EveryAnswerBringsCompletionNearer :
    (∃ p, (busyAt 0x00000007#32 .txn1 0#4 [.transport 6 0#3 []]).Inv ∧
      (busyAt 0x00000007#32 .txn1 0#4 [.transport 6 0#3 []]).pend = some p ∧ (Event.transport 6 0#3 []).answers p = true) ∧
    (∃ p, (busyAt 0x00000007#32 .waitConv 0#4 [.elapsed 6]).Inv ∧
      (busyAt 0x00000007#32 .waitConv 0#4 [.elapsed 6]).pend = some p ∧ (Event.elapsed 6).answers p = true) ∧
    ∃ p, (busyAt 0x00000007#32 .txn2 0#4 [.transport 6 7#3 []]).Inv ∧
      (busyAt 0x00000007#32 .txn2 0#4 [.transport 6 7#3 []]).pend = some p ∧ (Event.transport 6 7#3 []).answers p = true :=
  ⟨⟨_, busyAt_inv .measureT _ _ rfl rfl rfl, rfl, rfl⟩, ⟨_, busyAt_inv .measureT _ _ rfl rfl rfl, rfl, rfl⟩,
    _, busyAt_inv .measureT _ _ rfl rfl rfl, rfl, rfl⟩

theorem witness_WithoutAnAnswerTheOperationHangs :
    ∃ p t, (busyAt 0x00000007#32 .waitConv 0#4 [cmdWrite 0x02#32, .elapsed 5]).Inv ∧
      (busyAt 0x00000007#32 .waitConv 0#4 [cmdWrite 0x02#32, .elapsed 5]).pend = some p ∧
      (∀ e ∈ [cmdWrite 0x02#32, .elapsed 5], e.silentFor p = true) ∧
      core.run 2 (busyAt 0x00000007#32 .waitConv 0#4 [cmdWrite 0x02#32, .elapsed 5]) = .next t := by
  refine ⟨_, _, busyAt_inv .measureT _ _ rfl rfl rfl, rfl, ?_, rfl⟩
  intro e he
  fin_cases he <;> rfl

/-! ### Whole operations -/

/-- S8 of 95_test_vectors.md, its first row: cur = 0x3A, r = 0x81, and the byte written is 0xBB. -/
theorem witness_SetThenGetResolutionRoundTrips :
    let s := idleAt true [cmdWrite (encode (.setResolution 0x81#8 0#16)), .transport 7 0#3 [], .transport 8 0#3 [0x3A#8],
      .transport 9 0#3 [], cmdWrite (encode (.getResolution 0#24)), .transport 10 0#3 [], .transport 11 0#3 [0xBB#8]]
    s.Inv ∧ s.busy = false ∧ s.initDone = true ∧
      (cmdWrite (encode (.setResolution 0x81#8 0#16))).Writes 0x04 4 (encode (.setResolution 0x81#8 0#16)) ∧
      (cmdWrite (encode (.getResolution 0#24))).Writes 0x04 4 (encode (.getResolution 0#24)) ∧
      ∀ u, core.run 3 s = .next u → u.pend = some ⟨9, .txn 0#4 (linkWreg 0xBB#8 Config.params) Config.params.tTxnMs⟩ := by
  refine ⟨idleAt_inv _ _, rfl, rfl, cmdWrite_writes _, cmdWrite_writes _, ?_⟩
  rintro u h
  cases h
  rfl

theorem witness_MeasurementRunDeliversTheWord :
    let s := idleAt true [cmdWrite (encode (.measureRh 0#24)), .transport 7 0#3 [], .elapsed 8,
      .transport 9 0#3 [0x4E#8, 0x85#8, 0x6B#8]]
    s.Inv ∧ s.busy = false ∧ s.initDone = true ∧ (Instr.measureRh 0#24).op = .measureRh ∧ (Instr.measureT 0#24).op = .measureT ∧
      (cmdWrite (encode (.measureRh 0#24))).Writes 0x04 4 (encode (.measureRh 0#24)) :=
  ⟨idleAt_inv _ _, rfl, rfl, rfl, rfl, cmdWrite_writes _⟩

theorem witness_CrcDetectsEverySingleBitError :
    (0 < 24 ∧ 23 < 24) ∧ crcValid ((0x683A7C#24).extractLsb' 8 16) ((0x683A7C#24).extractLsb' 0 8) = true := by
  decide +kernel

/-- Two spellings of one address; an admitted read and write at a number; the boundary offsets. -/
theorem witness_WindowAddressesAreBaseRelative :
    (0 % 4 = 0 ∧ 0x1C % 4 = 0 ∧ 0x1C ≤ 0x1C ∧ 0x1F < 0x20) ∧
    (∀ off, (HostAddr.sseqBase off).value Config.params = (HostAddr.number (Config.params.sseqBase + off)).value Config.params) ∧
    (∀ off, (idleAt true [.host (.read (.number (Config.params.sseqBase + off)) 4)]).inputs =
      .host (.read (.number (Config.params.sseqBase + off)) 4) :: []) ∧
    ∀ off v, (idleAt true [.host (.write (.sseqBase off) 4 v)]).inputs = .host (.write (.sseqBase off) 4 v) :: [] :=
  ⟨by decide, fun _ => rfl, fun _ => rfl, fun _ _ => rfl⟩

end Sys2Proof.Tests
end

section
/-! SUPPORT. What one step can do, in the few kinds that statements about the state tell apart (`StepKind`, `step_kind`),
and, field by field, what the start of an operation and an answer can write. No invariant is needed for either. -/

namespace Sys2Proof.Machine

/-! ### What an outcome leads to -/

theorem onOutcome_eq {o : TxOutcome} {f g : State → State} {e : ErrCode} {u t : State} (h : onOutcome o f e g u = t) :
    o = .ok ∧ t = g u ∨ o ≠ .ok ∧ t = complete e (f u) := by
  by_cases ho : o = .ok
  · exact .inl ⟨ho, by rw [← h, ho, onOutcome_ok]⟩
  · exact .inr ⟨ho, by rw [← h, onOutcome_failed ho]⟩

theorem readAnswered_next {o : TxOutcome} {rx : List Byte} {f : State → State} {g : Byte → State → State} {u t : State}
    (h : readAnswered o rx f g u = .next t) :
    (∃ b, t = g b u) ∨ o ≠ .ok ∧ t = complete (mapOutcome o) (f u) := by
  unfold readAnswered at h
  split at h <;> cases h
  · exact .inl ⟨_, rfl⟩
  all_goals exact .inr ⟨by simp, rfl⟩

theorem measureAnswered_next {o : TxOutcome} {rx : List Byte} {u t : State} (h : measureAnswered o rx u = .next t) :
    (∃ msb lsb crc, t = measureTaken msb lsb crc u) ∨ o ≠ .ok ∧ t = complete (mapOutcome o) (failMeasure u) := by
  unfold measureAnswered at h
  split at h <;> cases h
  · exact .inl ⟨_, _, _, rfl⟩
  all_goals exact .inr ⟨by simp, rfl⟩

/-! ### The continuations -/

section
variable {o : TxOutcome} {rx : List Byte} {u t : State}

theorem Answered.of_continueInit (hop : u.curOp = some .init) (h : continueInit (.outcome o rx) u = .next t) :
    Answered u t := by
  cases hph : u.phase <;> simp only [continueInit, hph, reduceCtorEq, Host.Outcome.next.injEq] at h
  case configure =>
    rcases onOutcome_eq h with ⟨-, h⟩ | ⟨-, h⟩
    · exact .configured hop hph h
    · exact .initFailed _ hop (.inl ⟨hph, rfl⟩) h
  case install =>
    rcases onOutcome_eq h with ⟨-, h⟩ | ⟨-, h⟩
    · exact .installed hop hph h
    · exact .initFailed _ hop (.inr (.inl ⟨hph, rfl⟩)) h
  case txn1 =>
    rcases onOutcome_eq h with ⟨-, h⟩ | ⟨-, h⟩
    · exact .probed hop hph h
    · exact .initFailed _ hop (.inr (.inr ⟨hph, rfl⟩)) h

theorem Answered.of_continueSoftReset (hop : u.curOp = some .softReset)
    (h : continueSoftReset (.outcome o rx) u = .next t) : Answered u t := by
  cases hph : u.phase <;> simp only [continueSoftReset, hph, reduceCtorEq, Host.Outcome.next.injEq] at h
  case txn1 => exact .written o (.inl ⟨.inl hop, hph⟩) h.symm

theorem Answered.of_continueWriteUreg (hop : u.curOp = some .writeUreg)
    (h : continueWriteUreg (.outcome o rx) u = .next t) : Answered u t := by
  cases hph : u.phase <;> simp only [continueWriteUreg, hph, reduceCtorEq, Host.Outcome.next.injEq] at h
  case txn1 => exact .written o (.inl ⟨.inr hop, hph⟩) h.symm

theorem Answered.of_continueReadUreg (hop : u.curOp = some .readUreg)
    (h : continueReadUreg (.outcome o rx) u = .next t) : Answered u t := by
  cases hph : u.phase <;> simp only [continueReadUreg, hph, reduceCtorEq, Host.Outcome.next.injEq] at h
  case txn1 =>
    rcases onOutcome_eq h with ⟨-, h⟩ | ⟨ho, h⟩
    · exact .readCommanded (.inl hop) hph h
    · exact .readFailed o ho (.inl hop) (.inl hph) h
  case txn2 =>
    rcases readAnswered_next h with ⟨b, h⟩ | ⟨ho, h⟩
    · exact .readTaken b hop hph h
    · exact .readFailed o ho (.inl hop) (.inr hph) h

theorem Answered.of_continueGetResolution (hop : u.curOp = some .getResolution)
    (h : continueGetResolution (.outcome o rx) u = .next t) : Answered u t := by
  cases hph : u.phase <;> simp only [continueGetResolution, hph, reduceCtorEq, Host.Outcome.next.injEq] at h
  case txn1 =>
    rcases onOutcome_eq h with ⟨-, h⟩ | ⟨ho, h⟩
    · exact .readCommanded (.inr (.inl hop)) hph h
    · exact .resolutionFailed o ho hop (.inl hph) h
  case txn2 =>
    rcases readAnswered_next h with ⟨b, h⟩ | ⟨ho, h⟩
    · exact .resolutionTaken b hop hph h
    · exact .resolutionFailed o ho hop (.inr hph) h

theorem Answered.of_continueSetResolution (hop : u.curOp = some .setResolution)
    (h : continueSetResolution (.outcome o rx) u = .next t) : Answered u t := by
  cases hph : u.phase <;> simp only [continueSetResolution, hph, reduceCtorEq, Host.Outcome.next.injEq] at h
  case txn1 =>
    rcases onOutcome_eq h with ⟨-, h⟩ | ⟨ho, h⟩
    · exact .readCommanded (.inr (.inr hop)) hph h
    · exact .readFailed o ho (.inr hop) (.inl hph) h
  case txn2 =>
    rcases readAnswered_next h with ⟨b, h⟩ | ⟨ho, h⟩
    · exact .resolutionMerged b hop hph h
    · exact .readFailed o ho (.inr hop) (.inr hph) h
  case txn3 => exact .written o (.inr ⟨hop, hph⟩) h.symm

theorem Answered.of_continueMeasure (hop : u.curOp = some .measureT ∨ u.curOp = some .measureRh)
    (h : continueMeasure (.outcome o rx) u = .next t) : Answered u t := by
  cases hph : u.phase <;> simp only [continueMeasure, hph, reduceCtorEq, Host.Outcome.next.injEq] at h
  case txn1 =>
    rcases onOutcome_eq h with ⟨-, h⟩ | ⟨ho, h⟩
    · exact .triggered hop hph h
    · exact .measureFailed o ho hop (.inl hph) h
  case txn2 =>
    rcases measureAnswered_next h with ⟨msb, lsb, crc, h⟩ | ⟨ho, h⟩
    · exact .measured msb lsb crc hop hph h
    · exact .measureFailed o ho hop (.inr hph) h

/-- Wherever a transport answer leads, it leads there as `Answered` says: every other control position faults. -/
theorem Answered.of_continueOp (h : continueOp (.outcome o rx) u = .next t) : Answered u t := by
  unfold continueOp at h
  split at h <;> rename_i hop
  · exact of_continueInit hop h
  · exact of_continueSoftReset hop h
  · exact of_continueReadUreg hop h
  · exact of_continueWriteUreg hop h
  · exact of_continueGetResolution hop h
  · exact of_continueSetResolution hop h
  · exact of_continueMeasure (.inl hop) h
  · exact of_continueMeasure (.inr hop) h
  all_goals cases h

theorem continueMeasure_elapsed_next (h : continueMeasure .elapsed u = .next t) :
    u.phase = .waitConv ∧ t = issueTxn linkRd3 .txn2 u := by
  cases hph : u.phase <;> simp only [continueMeasure, hph, reduceCtorEq, Host.Outcome.next.injEq] at h
  case waitConv => exact ⟨rfl, h.symm⟩

/-- ELAPSED leads somewhere only in a measurement's WAIT_CONV: everywhere else the transport is waited for. -/
theorem continueOp_elapsed_next (h : continueOp .elapsed u = .next t) :
    (u.curOp = some .measureT ∨ u.curOp = some .measureRh) ∧ u.phase = .waitConv ∧ t = issueTxn linkRd3 .txn2 u := by
  unfold continueOp at h
  split at h <;> rename_i hop
  case h_7 => exact ⟨.inl hop, continueMeasure_elapsed_next h⟩
  case h_8 => exact ⟨.inr hop, continueMeasure_elapsed_next h⟩
  all_goals cases hph : u.phase <;> simp only [continueInit, continueSoftReset, continueReadUreg, continueWriteUreg,
    continueGetResolution, continueSetResolution, hph, reduceCtorEq] at h

end

/-! ### The kinds of step -/

/-- A step that accepts no command, takes no answer and is no reset: what it leaves as it was. Only CFG, DONE, DROP, the
schedule and the list of values read may change. -/
structure Quiet (s t : State) : Prop where
  cmdl : t.cmdl = s.cmdl
  lastOp : t.lastOp = s.lastOp
  done : s.done = false → t.done = false
  initDone : t.initDone = s.initDone
  crcChecked : t.crcChecked = s.crcChecked
  crcOk : t.crcOk = s.crcOk
  err : t.err = s.err
  raw : t.raw = s.raw
  rxbuf : t.rxbuf = s.rxbuf
  uregRd : t.uregRd = s.uregRd
  uregWr : t.uregWr = s.uregWr
  uregRes : t.uregRes = s.uregRes
  phase : t.phase = s.phase
  activePort : t.activePort = s.activePort
  pend : t.pend = s.pend
  cfgSnap : t.cfgSnap = s.cfgSnap
  newv : t.newv = s.newv
  nextTag : t.nextTag = s.nextTag

theorem Quiet.withInputs (s : State) (rest : List Event) : Quiet s (withInputs rest s) := by constructor <;> simp

theorem Quiet.writeStatus (s : State) (v : Word) (rest : List Event) :
    Quiet s (State.writeStatus v (Machine.withInputs rest s)) := by
  constructor <;> simp +contextual

/-- The kinds of step: `StepShape` with the steps that leave the sequencer alone taken together, as well as the two ways
to refuse a word, and with what an answer leads to. -/
inductive StepKind (s t : State) : Prop where
  | quiet (hr : ∀ rest, s.inputs ≠ .reset :: rest)
      (ha : ∀ v rest, HostWrites s.inputs 0x04 4 v rest → s.busy = true) (h : Quiet s t)
  /-- A reserved word, or a bus operation before INIT: completed in its accept step with `e`. -/
  | refused (v : Word) (rest : List Event) (e : ErrCode) (h : HostWrites s.inputs 0x04 4 v rest) (hb : s.busy = false)
      (hd : ∀ ign, decode v ≠ .ok (.init ign)) (ht : t = complete e (accept v (withInputs rest s)))
  | started (v : Word) (i : Instr) (rest : List Event) (h : HostWrites s.inputs 0x04 4 v rest) (hb : s.busy = false)
      (hd : decode v = .ok i) (hg : isBusOp i.op = true → s.initDone = true)
      (ht : t = startOf i (accept v (withInputs rest s)))
  | answered (p : Pending) (code : BitVec 3) (rx : List Byte) (rest : List Event) (hp : s.pend = some p)
      (h : s.inputs = .transport p.tag code rx :: rest)
      (hc : continueOp (.outcome (normalise p.req code rx).1 (normalise p.req code rx).2)
        (clearPend (withInputs rest s)) = .next t)
      (ha : Answered (clearPend (withInputs rest s)) t)
  | waited (p : Pending) (rest : List Event) (hp : s.pend = some p) (h : s.inputs = .elapsed p.tag :: rest)
      (o : s.curOp = some .measureT ∨ s.curOp = some .measureRh) (ph : s.phase = .waitConv)
      (ht : t = issueTxn linkRd3 .txn2 (clearPend (withInputs rest s)))
  | reset (rest : List Event) (h : s.inputs = .reset :: rest) (ht : t = resetInput (withInputs rest s))

/-- A write to another register than CMD is no CMD write. -/
theorem not_cmdWrite_of_hostWrites {l rest : List Event} {off : Nat} {w : Word} (h : HostWrites l off 4 w rest)
    (ho : off ≠ 0x04) (v : Word) (rest' : List Event) : ¬ HostWrites l 0x04 4 v rest' :=
  fun h' => ho (h.unique h').1

theorem HostWrites.ne_reset {l rest : List Event} {off size : Nat} {v : Word} (h : HostWrites l off size v rest)
    (rest' : List Event) : l ≠ .reset :: rest' := by
  rintro rfl
  exact not_hostWrites_reset h

theorem HostReads.ne_reset {l rest : List Event} {off size : Nat} (h : HostReads l off size rest)
    (rest' : List Event) : l ≠ .reset :: rest' := by
  obtain ⟨addr, rfl⟩ := h.event
  simp

theorem step_kind {s t : State} (hs : step s = .next t) : StepKind s t := by
  cases step_shape hs with
  | waits h ht =>
    subst ht
    exact .quiet (by simp [h]) (by simp [h]) (.withInputs t t.inputs)
  | hostRead off w rest h hoff hw ht =>
    subst ht
    exact .quiet h.ne_reset (fun v rest' h' => absurd h' (not_hostWrites_of_hostReads h)) (by constructor <;> simp)
  | writeCfg v rest h ht =>
    subst ht
    exact .quiet h.ne_reset (fun v' rest' h' => absurd h' (not_cmdWrite_of_hostWrites h (by decide) v' rest'))
      (by constructor <;> simp)
  | dropped v rest h hb ht =>
    subst ht
    exact .quiet h.ne_reset (fun _ _ _ => hb) (by constructor <;> simp)
  | reserved v r rest h hb hd ht => exact .refused v rest _ h hb (by simp [hd]) ht
  | gated v i rest h hb hd hg hi ht =>
    refine .refused v rest _ h hb (fun ign hd' => ?_) ht
    cases hd.symm.trans hd'
    cases hg
  | started v i rest h hb hd hg ht => exact .started v i rest h hb hd hg ht
  | writeStatus v rest h ht =>
    subst ht
    exact .quiet h.ne_reset (fun v' rest' h' => absurd h' (not_cmdWrite_of_hostWrites h (by decide) v' rest'))
      (.writeStatus s v rest)
  | ignored off v rest h hoff ht =>
    subst ht
    exact .quiet h.ne_reset (fun v' rest' h' => absurd h' (not_cmdWrite_of_hostWrites h (by omega) v' rest'))
      (.withInputs s rest)
  | discarded e rest h he ht =>
    subst ht
    obtain ⟨tag, rfl | ⟨code, rx, rfl⟩, -⟩ := he
    all_goals exact .quiet (by simp [h]) (by simp [h]) (.withInputs s rest)
  | transport p code rx rest hp h hd hc => exact .answered p code rx rest hp h hc (.of_continueOp hc)
  | elapsed p rest hp h hd hc =>
    obtain ⟨o, ph, ht⟩ := continueOp_elapsed_next hc
    exact .waited p rest hp h o ph ht
  | reset rest h ht => exact .reset rest h ht

end Sys2Proof.Machine
end

section
/-! SUPPORT. What the start of an operation and an answer write, register by register. -/

namespace Sys2Proof.Machine

/-! ### The latch of a word that decodes -/

theorem curOp_of_decode_ok {v : Word} {i : Instr} {s : State} (hd : decode v = .ok i) (hc : s.cmdl = v) :
    s.curOp = some i.op := by
  rw [State.curOp, hc, ← encode_of_decode_ok hd, fieldOp_encode, ofCode_code]

theorem fieldRsv_of_decode_ok {v : Word} {i : Instr} (hd : decode v = .ok i) : fieldRsv v = 0#4 := by
  rw [← encode_of_decode_ok hd, fieldRsv_encode]

theorem fieldArgLo_of_decode_writeUreg {v : Word} {value : Byte} {ign : BitVec 16}
    (hd : decode v = .ok (.writeUreg value ign)) : fieldArgLo v = value := by
  rw [← encode_of_decode_ok hd, encode, fieldArgLo_cmdWord2]

/-! ### The start of an operation -/

/-- What no operation's start part writes. -/
structure StartFrame (s t : State) : Prop where
  cmdl : t.cmdl = s.cmdl
  lastOp : t.lastOp = s.lastOp
  drop : t.drop = s.drop
  raw : t.raw = s.raw
  rxbuf : t.rxbuf = s.rxbuf
  uregRd : t.uregRd = s.uregRd
  uregRes : t.uregRes = s.uregRes
  newv : t.newv = s.newv

theorem startOf_frame (i : Instr) (s : State) : StartFrame s (startOf i s) := by cases i <;> constructor <;> rfl

/-- Only INIT's start writes ACTIVE_PORT, CFG_SNAP and INIT_DONE. -/
theorem startOf_lifecycle {i : Instr} (h : i.op ≠ .init) (s : State) :
    (startOf i s).activePort = s.activePort ∧ (startOf i s).cfgSnap = s.cfgSnap ∧
      (startOf i s).initDone = s.initDone := by
  cases i with
  | init ign => exact absurd rfl h
  | _ => exact ⟨rfl, rfl, rfl⟩

/-- Only WRITE_UREG's start writes UREG.WR, with the byte its link carries. -/
theorem startOf_uregWr (i : Instr) (s : State) :
    (startOf i s).uregWr = s.uregWr ∧ i.op ≠ .writeUreg ∨ ∃ value ign, i = .writeUreg value ign := by
  cases i with
  | writeUreg value ign => exact .inr ⟨value, ign, rfl⟩
  | _ => exact .inl ⟨rfl, nofun⟩

/-- Only CRC_CHECK completes at its start; the other starts are in CONFIGURE or TXN_1. -/
theorem startOf_phase (i : Instr) (s : State) :
    (startOf i s).phase = .idle ∨ (startOf i s).phase = .configure ∨ (startOf i s).phase = .txn1 := by
  cases i with
  | init ign => exact .inr (.inl rfl)
  | crcCheck value crc => exact .inl rfl
  | _ => exact .inr (.inr rfl)

/-! ### An answer -/

/-- What no answer writes. -/
structure AnswerFrame (u t : State) : Prop where
  cmdl : t.cmdl = u.cmdl
  lastOp : t.lastOp = u.lastOp
  drop : t.drop = u.drop
  activePort : t.activePort = u.activePort
  cfgSnap : t.cfgSnap = u.cfgSnap

section
variable {u t : State} (h : Answered u t)
include h

theorem Answered.frame : AnswerFrame u t := by cases h <;> rename_i ht <;> subst ht <;> constructor <;> rfl

theorem Answered.initDone :
    t.initDone = u.initDone ∨
      u.curOp = some .init ∧ u.phase = .txn1 ∧ t = complete .ok { u with initDone := true } := by
  cases h <;> rename_i ht
  case probed o ph => exact .inr ⟨o, ph, ht⟩
  all_goals rw [ht]; exact .inl rfl

theorem Answered.raw :
    t.raw = u.raw ∨ (u.curOp = some .measureT ∨ u.curOp = some .measureRh) ∧ t.phase = .idle := by
  cases h <;> rename_i ht <;> rw [ht]
  case measured o ph => exact .inr ⟨o, rfl⟩
  case measureFailed o ph => exact .inr ⟨o, rfl⟩
  all_goals exact .inl rfl

/-- RXBUF: the bytes in TXN_2, or 0 on a failure. -/
theorem Answered.rxbuf :
    t.rxbuf = u.rxbuf ∨
      (∃ o ∈ [Op.readUreg, .getResolution, .setResolution, .measureT, .measureRh], u.curOp = some o) ∧
        (u.phase = .txn2 ∨ u.phase = .txn1 ∧ t.phase = .idle ∧ t.rxbuf = Rxbuf.zero) := by
  cases h <;> rename_i ht <;> rw [ht]
  case readTaken o ph => exact .inr ⟨⟨_, by simp, o⟩, .inl ph⟩
  case resolutionTaken o ph => exact .inr ⟨⟨_, by simp, o⟩, .inl ph⟩
  case resolutionMerged o ph => exact .inr ⟨⟨_, by simp, o⟩, .inl ph⟩
  case measured o ph => exact .inr ⟨by rcases o with o | o <;> exact ⟨_, by simp, o⟩, .inl ph⟩
  case readFailed o ph =>
    exact .inr ⟨by rcases o with o | o <;> exact ⟨_, by simp, o⟩, ph.symm.imp id (⟨·, rfl, rfl⟩)⟩
  case resolutionFailed o ph => exact .inr ⟨⟨_, by simp, o⟩, ph.symm.imp id (⟨·, rfl, rfl⟩)⟩
  case measureFailed o ph =>
    exact .inr ⟨by rcases o with o | o <;> exact ⟨_, by simp, o⟩, ph.symm.imp id (⟨·, rfl, rfl⟩)⟩
  all_goals exact .inl rfl

theorem Answered.uregRd :
    t.uregRd = u.uregRd ∨
      (u.curOp = some .readUreg ∨ u.curOp = some .getResolution ∨ u.curOp = some .setResolution) ∧
        (u.phase = .txn2 ∨ u.phase = .txn1 ∧ t.phase = .idle ∧ t.uregRd = 0#8) := by
  cases h <;> rename_i ht <;> rw [ht]
  case readTaken o ph => exact .inr ⟨.inl o, .inl ph⟩
  case resolutionTaken o ph => exact .inr ⟨.inr (.inl o), .inl ph⟩
  case resolutionMerged o ph => exact .inr ⟨.inr (.inr o), .inl ph⟩
  case readFailed o ph => exact .inr ⟨o.imp id .inr, ph.symm.imp id (⟨·, rfl, rfl⟩)⟩
  case resolutionFailed o ph => exact .inr ⟨.inr (.inl o), ph.symm.imp id (⟨·, rfl, rfl⟩)⟩
  all_goals exact .inl rfl

theorem Answered.uregRes :
    t.uregRes = u.uregRes ∨
      u.curOp = some .getResolution ∧ (u.phase = .txn2 ∨ u.phase = .txn1 ∧ t.phase = .idle ∧ t.uregRes = 0#8) := by
  cases h <;> rename_i ht <;> rw [ht]
  case resolutionTaken o ph => exact .inr ⟨o, .inl ph⟩
  case resolutionFailed o ph => exact .inr ⟨o, ph.symm.imp id (⟨·, rfl, rfl⟩)⟩
  all_goals exact .inl rfl

/-- The write-back of SET_RESOLUTION is the only answer that writes UREG.WR or NEWV, and the only one that leads to
TXN_3. -/
theorem Answered.writeBack :
    t.uregWr = u.uregWr ∧ t.newv = u.newv ∧ t.phase ≠ .txn3 ∨
      u.curOp = some .setResolution ∧ u.phase = .txn2 ∧ ∃ b, t = Machine.resolutionMerged b u := by
  cases h <;> rename_i ht
  case resolutionMerged b o ph => exact .inr ⟨o, ph, b, ht⟩
  all_goals rw [ht]; exact .inl ⟨rfl, rfl, nofun⟩

/-- WRITE_UREG needs one answer, so no answer issues a request of it. -/
theorem Answered.writeUreg_completes (o : u.curOp = some .writeUreg) : t.nextTag = u.nextTag := by
  cases h <;> rename_i ht <;> rw [ht]
  case configured o' _ => cases o.symm.trans o'
  case installed o' _ => cases o.symm.trans o'
  case readCommanded o' _ => simp [o] at o'
  case resolutionMerged o' _ => cases o.symm.trans o'
  case triggered o' _ => simp [o] at o'
  all_goals rfl

end

end Sys2Proof.Machine
end

section
/-! SUPPORT. The invariant along one step: for each kind of step that it is kept. -/

namespace Sys2Proof.Machine

/-! ### Parts of the invariant that need not hold at a control position -/

/-- What the invariant says of a busy state besides its phase and request: what is left of it between an answer and the
request that follows, and between acceptance and the first request. -/
structure Running (s : State) : Prop where
  stored : StoredInv s
  rsv : fieldRsv s.cmdl = 0#4
  clean : s.done = false ∧ s.err = .ok ∧ s.crcChecked = false
  gate : s.initDone = true ↔ s.curOp ≠ some .init

theorem State.Inv.running {s : State} (h : s.Inv) (hb : s.busy = true) : Running s :=
  ⟨h.stored, h.busyDecoded hb, h.busyClean hb, h.gateHeld hb⟩

theorem Running.clearPend {s : State} (h : Running s) : Running (clearPend s) :=
  ⟨storedInv_clearPend h.stored, h.rsv, h.clean, h.gate⟩

theorem Running.withInputs {s : State} (h : Running s) (rest : List Event) : Running (withInputs rest s) :=
  ⟨storedInv_withInputs h.stored rest, h.rsv, h.clean, h.gate⟩

/-- Issuing the request of the new control position, outside TXN_3, gives a state that meets the invariant. -/
theorem Running.inv_issue {s : State} (h : Running s) {o : Op} {r : Request} {ph : Phase} (ho : s.curOp = some o)
    (hr : expectedAt (some o) ph (issue r ph s) = some r) (hph : ph ≠ .txn3) : (issue r ph s).Inv :=
  h.stored.inv_issue r ph (expected_at ho rfl hr) h.rsv h.clean h.gate (fun h3 => absurd h3 hph)

/-! ### What the stored registers may hold -/

theorem storedInv_setCrc {s : State} (h : StoredInv s) (b : Bool) : StoredInv (s.setCrc b) :=
  ⟨h.lastOp, nofun, h.port, h.raw, h.rx, h.res⟩

theorem storedInv_takeRead {s : State} (h : StoredInv s) (b : Byte) : StoredInv (takeRead b s) :=
  ⟨h.lastOp, h.crc, h.port, h.raw, .inr (.inl ⟨b, rfl⟩), h.res⟩

theorem storedInv_failRead {s : State} (h : StoredInv s) : StoredInv (failRead s) :=
  ⟨h.lastOp, h.crc, h.port, h.raw, .inl rfl, h.res⟩

theorem storedInv_uregRes {s : State} (h : StoredInv s) {b : Byte} (hb : b &&& 0x7E#8 = 0#8) :
    StoredInv { s with uregRes := b } :=
  ⟨h.lastOp, h.crc, h.port, h.raw, h.rx, hb⟩

theorem storedInv_uregWr {s : State} (h : StoredInv s) (b : Byte) : StoredInv { s with uregWr := b } :=
  ⟨h.lastOp, h.crc, h.port, h.raw, h.rx, h.res⟩

theorem storedInv_failMeasure {s : State} (h : StoredInv s) : StoredInv (failMeasure s) :=
  ⟨h.lastOp, h.crc, h.port, BitVec.zero_and, .inl rfl, h.res⟩

/-- The masks of RAW and UREG.RES keep the reserved bits 0 (R49, R221). -/
theorem rawMask_reserved (w : Half) : (w &&& 0xFFFC#16) &&& 0x0003#16 = 0#16 := by
  rw [BitVec.and_assoc]; exact BitVec.and_zero

theorem resMask_reserved (b : Byte) : (b &&& resMask) &&& 0x7E#8 = 0#8 := by
  rw [BitVec.and_assoc]; exact BitVec.and_zero

/-! ### The kinds of step -/

theorem Quiet.inv {s t : State} (h : Quiet s t) (hi : s.Inv) : t.Inv :=
  inv_congr hi h.pend h.phase h.cmdl h.cfgSnap h.activePort h.newv h.nextTag h.lastOp h.done h.err h.crcChecked h.crcOk
    h.initDone h.uregWr h.raw h.rxbuf h.uregRes

/-- Acceptance of a bus operation that passes the gate, or of any other operation but INIT. -/
theorem running_accept {s : State} {v : Word} {i : Instr} (h : StoredInv s) (hd : decode v = .ok i)
    (hi : i.op ≠ .init) (hg : s.initDone = true) : Running (accept v s) where
  stored := storedInv_accept h v
  rsv := fieldRsv_of_decode_ok hd
  clean := ⟨rfl, rfl, rfl⟩
  gate := by simp [hg, curOp_of_decode_ok (s := accept v s) hd rfl, hi]

theorem inv_startInit {s : State} (h : StoredInv s) (ho : s.curOp = some .init) (hr : fieldRsv s.cmdl = 0#4)
    (hc : s.done = false ∧ s.err = .ok ∧ s.crcChecked = false) : (startInit s).Inv := by
  have hrun : Running { s with cfgSnap := s.cfg, activePort := s.cfg.port, initDone := false } :=
    ⟨⟨h.lastOp, h.crc, rfl, h.raw, h.rx, h.res⟩, hr, hc, nofun, fun hne => absurd ho hne⟩
  exact hrun.inv_issue ho rfl nofun

/-- A word that decodes starts its operation in a state that meets the invariant. -/
theorem inv_startOf {s : State} {v : Word} {i : Instr} (h : StoredInv s) (hd : decode v = .ok i)
    (hg : isBusOp i.op = true → s.initDone = true) : (startOf i (accept v s)).Inv := by
  have ho : (accept v s).curOp = some i.op := curOp_of_decode_ok hd rfl
  cases i with
  | init ign => exact inv_startInit (storedInv_accept h v) ho (fieldRsv_of_decode_ok hd) ⟨rfl, rfl, rfl⟩
  | crcCheck value crc => exact (storedInv_setCrc (storedInv_accept h v) _).inv_complete .ok
  | writeUreg value ign =>
    have hrun := running_accept h hd nofun (hg rfl)
    have hw : Running { accept v s with uregWr := value } :=
      ⟨storedInv_uregWr hrun.stored value, hrun.rsv, hrun.clean, hrun.gate⟩
    refine hw.inv_issue ho ?_ nofun
    simp only [expectedAt, issue_cmdl, accept_cmdl, fieldArgLo_of_decode_writeUreg hd]
    rfl
  | softReset ign => exact (running_accept h hd nofun (hg rfl)).inv_issue ho rfl nofun
  | readUreg ign => exact (running_accept h hd nofun (hg rfl)).inv_issue ho rfl nofun
  | getResolution ign => exact (running_accept h hd nofun (hg rfl)).inv_issue ho rfl nofun
  | setResolution resolution ign => exact (running_accept h hd nofun (hg rfl)).inv_issue ho rfl nofun
  | measureT ign => exact (running_accept h hd nofun (hg rfl)).inv_issue ho rfl nofun
  | measureRh ign => exact (running_accept h hd nofun (hg rfl)).inv_issue ho rfl nofun

/-- SET_RESOLUTION's write-back: NEWV and UREG.WR are the byte its link carries. -/
theorem inv_writeBack {s : State} (h : Running s) (ho : s.curOp = some .setResolution) (v : Byte) :
    (writeBack v s).Inv := by
  have hstored : StoredInv { s with newv := v, uregWr := v } :=
    ⟨h.stored.lastOp, h.stored.crc, h.stored.port, h.stored.raw, h.stored.rx, h.stored.res⟩
  exact hstored.inv_issue _ .txn3 (expected_at ho rfl rfl) h.rsv h.clean h.gate (fun _ => rfl)

/-- An answer leads to completion, or to the request of the next control position. -/
theorem Answered.inv {u t : State} (h : Answered u t) (hu : Running u) : t.Inv := by
  cases h with
  | configured o ph ht => subst ht; exact hu.inv_issue o rfl nofun
  | installed o ph ht => subst ht; exact hu.inv_issue o rfl nofun
  | probed o ph ht =>
    subst ht
    have hstored : StoredInv { u with initDone := true } :=
      ⟨hu.stored.lastOp, hu.stored.crc, hu.stored.port, hu.stored.raw, hu.stored.rx, hu.stored.res⟩
    exact hstored.inv_complete .ok
  | initFailed e o he ht => subst ht; exact hu.stored.inv_complete e
  | written x o ht => subst ht; exact hu.stored.inv_complete _
  | readCommanded o ph ht => subst ht; rcases o with o | o | o <;> exact hu.inv_issue o rfl nofun
  | readTaken b o ph ht => subst ht; exact (storedInv_takeRead hu.stored b).inv_complete .ok
  | resolutionTaken b o ph ht =>
    subst ht
    exact (storedInv_uregRes (storedInv_takeRead hu.stored b) (resMask_reserved b)).inv_complete .ok
  | resolutionMerged b o ph ht =>
    subst ht
    exact inv_writeBack ⟨storedInv_takeRead hu.stored b, hu.rsv, hu.clean, hu.gate⟩ o _
  | readFailed x hx o ph ht => subst ht; exact (storedInv_failRead hu.stored).inv_complete _
  | resolutionFailed x hx o ph ht =>
    subst ht
    exact (storedInv_uregRes (storedInv_failRead hu.stored) rfl).inv_complete _
  | triggered o ph ht => subst ht; rcases o with o | o <;> exact hu.inv_issue o rfl nofun
  | measured msb lsb crc o ph ht =>
    subst ht
    have hstored : StoredInv { u.setCrc (crcValid (measureWord msb lsb) crc) with
        rxbuf := Rxbuf.ofThree msb lsb crc, raw := Raw.ofWord (measureWord msb lsb) } :=
      ⟨hu.stored.lastOp, nofun, hu.stored.port, rawMask_reserved _, .inr (.inr ⟨_, _, _, rfl⟩), hu.stored.res⟩
    exact hstored.inv_complete .ok
  | measureFailed x hx o ph ht => subst ht; exact (storedInv_failMeasure hu.stored).inv_complete _

/-- The reset values meet the invariant, whatever the model's own three fields hold. -/
theorem inv_resetInput (s : State) : (resetInput s).Inv where
  pendIsExpected := by rw [expected_idle _ rfl]; rfl
  busyIsPending := nofun
  tagIssued := nofun
  lastOpLatched := rfl
  busyDecoded := nofun
  busyClean := nofun
  crcOkChecked := fun _ => rfl
  gateHeld := nofun
  portOfSnapshot := rfl
  writeBackShown := nofun
  rawMasked := BitVec.zero_and
  rxbufShape := .inl rfl
  resMasked := BitVec.zero_and

end Sys2Proof.Machine

open Sys2Proof Sys2Proof.Machine

/-- Settles O40: each kind of step, quiet, refused, started, answered, waited or reset, keeps the invariant. -/
theorem everyStepKeepsTheInvariant : Obligations.EveryStepKeepsTheInvariant := by
  intro s t hi hs
  cases step_kind hs with
  | quiet hr ha h => exact h.inv hi
  | refused v rest e h hb hd ht =>
    subst ht
    exact (storedInv_accept (storedInv_withInputs hi.stored rest) v).inv_complete e
  | started v i rest h hb hd hg ht =>
    subst ht
    exact inv_startOf (storedInv_withInputs hi.stored rest) hd hg
  | answered p code rx rest hp h hc ha =>
    exact ha.inv ((hi.running (busy_of_pending hi hp)).withInputs rest).clearPend
  | waited p rest hp h o ph ht =>
    subst ht
    have hu := ((hi.running (busy_of_pending hi hp)).withInputs rest).clearPend
    rcases o with o | o
    · exact hu.inv_issue (o := .measureT) o rfl nofun
    · exact hu.inv_issue (o := .measureRh) o rfl nofun
  | reset rest h ht => subst ht; exact inv_resetInput _

/-- Settles O39: both are `resetInput` of some state. -/
theorem invariantHoldsAfterReset : Obligations.InvariantHoldsAfterReset := by
  refine ⟨fun inputs => inv_resetInput { State.reset with inputs := inputs }, fun s t rest h hs => ?_⟩
  rw [step_cons h] at hs
  cases hs
  exact inv_resetInput _
end

section
/-! SUPPORT. The step of a given event (an accepted or a dropped word, a STATUS write, a reset), and what a step does to
DROP, INIT_DONE, the result registers and UREG.WR. -/

namespace Sys2Proof.Machine

section
variable {s t : State} {v : Word} {rest : List Event} (hs : step s = .next t)
include hs

/-- A CMD write while IDLE: the word is refused in its accept step, or its operation starts. -/
theorem accepted_cases (h : HostWrites s.inputs 0x04 4 v rest) (hb : s.busy = false) :
    (∃ e, t = complete e (accept v (withInputs rest s))) ∧ (∀ ign, decode v ≠ .ok (.init ign)) ∨
      ∃ i, decode v = .ok i ∧ t = startOf i (accept v (withInputs rest s)) := by
  cases step_kind hs with
  | quiet hr ha h' => simp [ha v rest h] at hb
  | refused v' rest' e h' hb' hd ht =>
    obtain ⟨-, -, rfl, rfl⟩ := h.unique h'
    exact .inl ⟨⟨e, ht⟩, hd⟩
  | started v' i rest' h' hb' hd hg ht =>
    obtain ⟨-, -, rfl, rfl⟩ := h.unique h'
    exact .inr ⟨i, hd, ht⟩
  | answered p code rx rest' hp h' hc ha => rw [h'] at h; exact absurd h not_hostWrites_transport
  | waited p rest' hp h' o ph ht => rw [h'] at h; exact absurd h not_hostWrites_elapsed
  | reset rest' h' ht => exact absurd h' (h.ne_reset rest')

theorem accepted_init {ign : BitVec 24} (h : HostWrites s.inputs 0x04 4 v rest) (hb : s.busy = false)
    (hd : decode v = .ok (.init ign)) : t = startInit (accept v (withInputs rest s)) := by
  rcases accepted_cases hs h hb with ⟨-, hne⟩ | ⟨i, hi, ht⟩
  · exact absurd hd (hne ign)
  · cases hd.symm.trans hi
    exact ht

theorem dropped_eq (h : HostWrites s.inputs 0x04 4 v rest) (hb : s.busy = true) : t = (withInputs rest s).setDrop := by
  rw [step_hostWrite h (by decide) (by decide)] at hs
  have hd : registerWrite 0x04 v (withInputs rest s) = .next (withInputs rest s).setDrop := hostWriteCmd_busy v _ hb
  rw [hd] at hs
  cases hs
  rfl

theorem statusWritten_eq (h : HostWrites s.inputs 0x08 4 v rest) : t = State.writeStatus v (withInputs rest s) := by
  rw [step_hostWrite h (by decide) (by decide)] at hs
  cases hs
  rfl

theorem reset_eq (h : s.inputs = .reset :: rest) : t = resetInput (withInputs rest s) := by
  rw [step_cons h] at hs
  cases hs
  rfl

/-- What a step does to DROP (R44). -/
theorem drop_cases :
    t.drop = s.drop ∨
      (s.busy = true ∧ ∃ v rest, HostWrites s.inputs 0x04 4 v rest) ∧ t.drop = true ∨
      (∃ v rest, HostWrites s.inputs 0x08 4 v rest ∧ t.drop = (s.drop && !v.getLsbD 5)) ∨
      (∃ rest, s.inputs = .reset :: rest) ∧ t.drop = false := by
  cases step_shape hs with
  | dropped v rest h hb ht => subst ht; exact .inr (.inl ⟨⟨hb, v, rest, h⟩, rfl⟩)
  | writeStatus v rest h ht => subst ht; exact .inr (.inr (.inl ⟨v, rest, h, rfl⟩))
  | reset rest h ht => subst ht; exact .inr (.inr (.inr ⟨⟨rest, h⟩, rfl⟩))
  | started v i rest h hb hd hg ht => subst ht; exact .inl (startOf_frame i _).drop
  | transport p code rx rest hp h hd hc => exact .inl (Answered.of_continueOp hc).frame.drop
  | elapsed p rest hp h hd hc =>
    obtain ⟨-, -, ht⟩ := continueOp_elapsed_next hc
    subst ht; exact .inl rfl
  | waits h ht => subst ht; exact .inl rfl
  | hostRead off w rest h hoff hw ht => subst ht; exact .inl rfl
  | writeCfg v rest h ht => subst ht; exact .inl rfl
  | reserved v r rest h hb hd ht => subst ht; exact .inl rfl
  | gated v i rest h hb hd hg hi ht => subst ht; exact .inl rfl
  | ignored off v rest h hoff ht => subst ht; exact .inl rfl
  | discarded e rest h he ht => subst ht; exact .inl rfl

end

/-! ### INIT_DONE -/

/-- INIT's probe completes OK only if its outcome is OK (R194, R195). -/
theorem outcome_of_initProbed {o : TxOutcome} {u : State} (h : (initProbed o u).err = .ok) : o = .ok := by
  rcases onOutcome_eq (t := initProbed o u) rfl with ⟨ho, -⟩ | ⟨-, ht⟩
  · exact ho
  · rw [ht] at h; cases h

theorem request_of_pending {s : State} {p : Pending} {o : Op} {ph : Phase} {r : Request} (hi : s.Inv)
    (hp : s.pend = some p) (ho : s.curOp = some o) (hph : s.phase = ph) (hr : expectedAt (some o) ph s = some r) :
    p.req = r := by
  have h := hi.pendIsExpected
  rw [hp, expected_at ho hph hr] at h
  exact Option.some.inj h

/-- The answer with which the probe completes OK has no bytes, for the probe reads none (R162, R166). -/
theorem probe_answer {u t : State} {r : Request} {code : BitVec 3} {rx : List Byte} (hr : r.reads = some 0)
    (o : u.curOp = some .init) (ph : u.phase = .txn1)
    (hc : continueOp (.outcome (normalise r code rx).1 (normalise r code rx).2) u = .next t) (he : t.err = .ok) :
    code = 0#3 ∧ rx = [] := by
  rw [continue_init_txn1 o ph] at hc
  cases hc
  rcases normalise_cases r code rx with ⟨-, hcode, hlen⟩ | ⟨-, hne, -⟩
  · exact ⟨hcode, List.length_eq_zero_iff.mp (hlen 0 hr)⟩
  · exact absurd (outcome_of_initProbed he) hne

/-- What a step does to INIT_DONE (R40). -/
theorem initDone_cases {s t : State} (hi : s.Inv) (hs : step s = .next t) :
    t.initDone = s.initDone ∨
      (∃ v ign rest, HostWrites s.inputs 0x04 4 v rest ∧ s.busy = false ∧ decode v = .ok (.init ign)) ∧
        t.initDone = false ∨
      (s.curOp = some .init ∧ s.phase = .txn1 ∧ t.busy = false ∧ t.done = true ∧ t.err = .ok ∧
        ∃ p rest, s.pend = some p ∧ s.inputs = .transport p.tag 0#3 [] :: rest) ∧ t.initDone = true ∨
      (∃ rest, s.inputs = .reset :: rest) ∧ t.initDone = false := by
  cases step_kind hs with
  | quiet hr ha h => exact .inl h.initDone
  | refused v rest e h hb hd ht => subst ht; exact .inl rfl
  | started v i rest h hb hd hg ht =>
    subst ht
    by_cases hop : i.op = .init
    · cases i <;> cases hop
      exact .inr (.inl ⟨⟨v, _, rest, h, hb, hd⟩, rfl⟩)
    · exact .inl (startOf_lifecycle hop _).2.2
  | answered p code rx rest hp h hc ha =>
    rcases ha.initDone with heq | ⟨o, ph, ht⟩
    · exact .inl heq
    · have hr : p.req = txnRequest s linkProbe := request_of_pending hi hp o ph rfl
      obtain ⟨rfl, rfl⟩ := probe_answer (by rw [hr, reads_txnRequest, reads_probe]) o ph hc (by rw [ht]; rfl)
      subst ht
      exact .inr (.inr (.inl ⟨⟨o, ph, rfl, rfl, rfl, p, rest, hp, h⟩, rfl⟩))
  | waited p rest hp h o ph ht => subst ht; exact .inl rfl
  | reset rest h ht => subst ht; exact .inr (.inr (.inr ⟨⟨rest, h⟩, rfl⟩))

/-- If INIT ends with ERR = OK, its probe was answered OK. -/
theorem Answered.init_ok {u t : State} (h : Answered u t) (o : u.curOp = some .init) (hi : t.phase = .idle)
    (he : t.err = .ok) : t.initDone = true := by
  cases h <;> rename_i ht <;> subst ht
  case probed => rfl
  case initFailed e o' he' =>
    rcases he' with ⟨-, rfl⟩ | ⟨-, rfl⟩ | ⟨-, rfl⟩ <;> cases he
  case written x o' => simp [o] at o'
  case readTaken b o' ph => cases o.symm.trans o'
  case resolutionTaken b o' ph => cases o.symm.trans o'
  case readFailed x hx o' ph => simp [o] at o'
  case resolutionFailed x hx o' ph => cases o.symm.trans o'
  case measured msb lsb crc o' ph => simp [o] at o'
  case measureFailed x hx o' ph => simp [o] at o'
  all_goals cases hi

/-- INIT ends with ERR = OK only by setting INIT_DONE. -/
theorem initDone_of_init_ok {s t : State} (hs : step s = .next t) (ho : s.curOp = some .init) (hb : s.busy = true)
    (hbt : t.busy = false) (he : t.err = .ok) (hdone : t.done = true) : t.initDone = true := by
  have hph := (busy_eq_true_iff s).mp hb
  have hpt := (busy_eq_false_iff t).mp hbt
  cases step_kind hs with
  | quiet hr ha h => exact absurd (h.phase.symm.trans hpt) hph
  | refused v rest e h hb' hd ht => exact absurd (hb.symm.trans hb') nofun
  | started v i rest h hb' hd hg ht => exact absurd (hb.symm.trans hb') nofun
  | answered p code rx rest hp h hc ha => exact ha.init_ok ho hpt he
  | waited p rest hp h o ph ht => subst ht; cases hpt
  | reset rest h ht => subst ht; cases hdone

/-- While INIT_DONE is 0 only an INIT leads from IDLE to busy: the gate holds the bus operations back (R154). -/
theorem init_of_started {s t : State} (hi : s.Inv) (hs : step s = .next t) (h0 : s.initDone = false)
    (hb : s.busy = false) (hbt : t.busy = true) :
    ∃ v ign rest, HostWrites s.inputs 0x04 4 v rest ∧ decode v = .ok (.init ign) := by
  have hpt := (busy_eq_true_iff t).mp hbt
  cases step_kind hs with
  | quiet hr ha h => exact absurd (h.phase.trans ((busy_eq_false_iff s).mp hb)) hpt
  | refused v rest e h hb' hd ht => subst ht; exact absurd rfl hpt
  | started v i rest h hb' hd hg ht =>
    cases i with
    | init ign => exact ⟨v, ign, rest, h, hd⟩
    | crcCheck value crc => subst ht; exact absurd rfl hpt
    | _ => exact absurd (h0.symm.trans (hg rfl)) nofun
  | answered p code rx rest hp h hc ha => exact absurd (hb.symm.trans (busy_of_pending hi hp)) nofun
  | waited p rest hp h o ph ht => exact absurd (hb.symm.trans (busy_of_pending hi hp)) nofun
  | reset rest h ht => subst ht; exact absurd rfl hpt

/-! ### The result registers -/

/-- The registers that only answers and reset write. -/
structure ResultsKept (s t : State) : Prop where
  raw : t.raw = s.raw
  rxbuf : t.rxbuf = s.rxbuf
  uregRd : t.uregRd = s.uregRd
  uregRes : t.uregRes = s.uregRes
  newv : t.newv = s.newv

/-- A step keeps the result registers, or it is an answer to the pending request, or reset. -/
theorem results_cases {s t : State} (hs : step s = .next t) :
    ResultsKept s t ∨
      (∃ p code rx rest, s.pend = some p ∧ s.inputs = .transport p.tag code rx :: rest ∧
        Answered (clearPend (withInputs rest s)) t) ∨
      ∃ rest, s.inputs = .reset :: rest := by
  cases step_kind hs with
  | quiet hr ha h => exact .inl ⟨h.raw, h.rxbuf, h.uregRd, h.uregRes, h.newv⟩
  | refused v rest e h hb hd ht => subst ht; exact .inl ⟨rfl, rfl, rfl, rfl, rfl⟩
  | started v i rest h hb hd hg ht =>
    subst ht
    have hf := startOf_frame i (accept v (withInputs rest s))
    exact .inl ⟨hf.raw, hf.rxbuf, hf.uregRd, hf.uregRes, hf.newv⟩
  | answered p code rx rest hp h hc ha => exact .inr (.inl ⟨p, code, rx, rest, hp, h, ha⟩)
  | waited p rest hp h o ph ht => subst ht; exact .inl ⟨rfl, rfl, rfl, rfl, rfl⟩
  | reset rest h ht => exact .inr (.inr ⟨rest, h⟩)

/-- RAW's mask, as its two low bits. -/

theorem rawWord_low_of_masked {w : Half} (h : w &&& 0x0003#16 = 0#16) : w.extractLsb' 0 2 = 0#2 := by
  have hx : (w &&& 0x0003#16).extractLsb' 0 2 = 0#2 := by rw [h]; rfl
  rwa [BitVec.extractLsb'_and, show (0x0003#16).extractLsb' 0 2 = BitVec.allOnes 2 from rfl, BitVec.and_allOnes] at hx

/-! ### UREG.WR -/

/-- The control positions whose pending request is a write of the user register (R215, R223). -/
def AtWrite (t : State) : Prop :=
  t.curOp = some .writeUreg ∧ t.phase = .txn1 ∨ t.curOp = some .setResolution ∧ t.phase = .txn3

/-- The pending request is the write transaction of the byte UREG.WR shows, under the number `tag` (R225). -/
def WritesShown (tag : Nat) (t : State) : Prop :=
  t.pend = some ⟨tag, .txn t.activePort (linkWreg t.uregWr Config.params) Config.params.tTxnMs⟩

theorem writesShown_startWriteUreg (value : Byte) (s : State) : WritesShown s.nextTag (startWriteUreg value s) := rfl

theorem writesShown_resolutionMerged (b : Byte) (s : State) : WritesShown s.nextTag (resolutionMerged b s) := rfl

/-- An answer to an operation other than SET_RESOLUTION's TXN_2 keeps UREG.WR and issues no write. -/
theorem Answered.uregWr_cases {u t : State} (h : Answered u t) :
    t.uregWr = u.uregWr ∧ (t.nextTag = u.nextTag ∨ t.curOp ≠ some .writeUreg ∧ t.phase ≠ .txn3) ∨
      AtWrite t ∧ WritesShown u.nextTag t := by
  rcases h.writeBack with ⟨heq, -, hne⟩ | ⟨o, -, b, rfl⟩
  · by_cases o : u.curOp = some .writeUreg
    · exact .inl ⟨heq, .inl (h.writeUreg_completes o)⟩
    · exact .inl ⟨heq, .inr ⟨(curOp_of_cmdl h.frame.cmdl).trans_ne o, hne⟩⟩
  · exact .inr ⟨.inr ⟨o, rfl⟩, writesShown_resolutionMerged b u⟩

/-- What a step does to UREG.WR (R53): it keeps it and issues no write, or it issues the write of the new byte. -/
theorem uregWr_cases {s t : State} (hs : step s = .next t) (hreset : ∀ rest, s.inputs ≠ .reset :: rest) :
    t.uregWr = s.uregWr ∧ (t.nextTag = s.nextTag ∨ t.curOp ≠ some .writeUreg ∧ t.phase ≠ .txn3) ∨
      AtWrite t ∧ WritesShown s.nextTag t := by
  cases step_kind hs with
  | quiet hr ha h => exact .inl ⟨h.uregWr, .inl h.nextTag⟩
  | refused v rest e h hb hd ht => subst ht; exact .inl ⟨rfl, .inl rfl⟩
  | started v i rest h hb hd hg ht =>
    subst ht
    have ho := curOp_of_decode_ok hd (startOf_frame i (accept v (withInputs rest s))).cmdl
    rcases startOf_uregWr i (accept v (withInputs rest s)) with ⟨heq, hop⟩ | ⟨value, ign, rfl⟩
    · refine .inl ⟨heq, .inr ⟨by simpa [ho] using hop, ?_⟩⟩
      rcases startOf_phase i (accept v (withInputs rest s)) with hph | hph | hph <;> rw [hph] <;> nofun
    · exact .inr ⟨.inl ⟨ho, rfl⟩, writesShown_startWriteUreg value _⟩
  | answered p code rx rest hp h hc ha => exact ha.uregWr_cases
  | waited p rest hp h o ph ht =>
    subst ht
    have ho : s.curOp ≠ some .writeUreg := by rcases o with o | o <;> simp [o]
    exact .inl ⟨rfl, .inr ⟨ho, nofun⟩⟩
  | reset rest h ht => exact absurd h (hreset rest)

end Sys2Proof.Machine
end

section
/-! Who writes each register of the state: LAST_OP and the latch, INIT_DONE, DROP, RAW, RXBUF, UREG, ACTIVE_PORT. -/

open Sys2Proof Sys2Proof.Machine

/-- Settles O15: an accepted word is latched, and no start, answer or quiet step writes the latch. -/
theorem acceptedWordIsLatchedAndLastOpFollows : Obligations.AcceptedWordIsLatchedAndLastOpFollows := by
  intro s t hs
  refine ⟨fun v rest h hb => ?_, fun hcmd hreset => ?_, fun rest h => ?_⟩
  · rcases accepted_cases hs h hb with ⟨⟨e, rfl⟩, -⟩ | ⟨i, -, rfl⟩
    · exact ⟨rfl, rfl⟩
    · have hf := startOf_frame i (accept v (withInputs rest s))
      exact ⟨hf.lastOp, hf.cmdl⟩
  · cases step_kind hs with
    | quiet hr ha h => exact ⟨h.lastOp, h.cmdl⟩
    | refused v rest e h hb hd ht => simp [hcmd v rest h] at hb
    | started v i rest h hb hd hg ht => simp [hcmd v rest h] at hb
    | answered p code rx rest hp h hc ha => exact ⟨ha.frame.lastOp, ha.frame.cmdl⟩
    | waited p rest hp h o ph ht => subst ht; exact ⟨rfl, rfl⟩
    | reset rest h ht => exact absurd h (hreset rest)
  · rw [reset_eq hs h]
    exact ⟨rfl, rfl⟩

/-- Settles O44: INIT_DONE is cleared by INIT's start, and set by the OK answer to its probe. -/
theorem initDoneChangesOnlyByInitAndReset : Obligations.InitDoneChangesOnlyByInitAndReset := by
  intro s t hi hs
  refine ⟨fun v ign rest h hb hd => ?_, fun h0 h1 => ?_, initDone_of_init_ok hs, fun h1 h0 => ?_,
    init_of_started hi hs⟩
  · rw [accepted_init hs h hb hd]
    rfl
  · rcases initDone_cases hi hs with heq | ⟨-, ht⟩ | ⟨h, -⟩ | ⟨-, ht⟩
    · simp [heq, h0] at h1
    · simp [ht] at h1
    · exact h
    · simp [ht] at h1
  · rcases initDone_cases hi hs with heq | ⟨h, -⟩ | ⟨-, ht⟩ | ⟨h, -⟩
    · simp [heq, h1] at h0
    · obtain ⟨v, ign, rest, h⟩ := h
      exact .inr ⟨v, ign, rest, h⟩
    · simp [ht] at h0
    · exact .inl h

/-- Settles O45: the four things a step can do to DROP, by its event. -/
theorem dropIsStickyUntilWrittenOrReset : Obligations.DropIsStickyUntilWrittenOrReset := by
  intro s t hs
  refine ⟨fun v rest h => ⟨fun hb => ?_, fun hb => ?_⟩, fun h0 h1 => ?_, fun h1 h0 => ?_, fun v rest h hv => ?_,
    fun rest h => ?_⟩
  · rw [dropped_eq hs h hb]
    rfl
  · rcases accepted_cases hs h hb with ⟨⟨e, rfl⟩, -⟩ | ⟨i, -, rfl⟩
    · rfl
    · exact (startOf_frame i (accept v (withInputs rest s))).drop
  · rcases drop_cases hs with heq | ⟨h, -⟩ | ⟨v, rest, -, heq⟩ | ⟨-, ht⟩
    · simp [heq, h0] at h1
    · exact h
    · simp [heq, h0] at h1
    · simp [ht] at h1
  · rcases drop_cases hs with heq | ⟨-, ht⟩ | ⟨v, rest, h, heq⟩ | ⟨h, -⟩
    · simp [heq, h1] at h0
    · simp [ht] at h0
    · exact .inr ⟨v, rest, h, by simpa [heq, h1] using h0⟩
    · exact .inl h
  · rw [statusWritten_eq hs h, writeStatus_drop, hv]
    simp
  · rw [reset_eq hs h]
    rfl

/-- Settles O46: the mask of R49 is part of the invariant, and of the answers only a measurement's last writes RAW. -/
theorem onlyMeasurementsWriteRaw : Obligations.OnlyMeasurementsWriteRaw := by
  intro s t hi hs
  refine ⟨rawWord_low_of_masked hi.rawMasked,
    rawWord_low_of_masked (everyStepKeepsTheInvariant s t hi hs).rawMasked, fun hne => ?_⟩
  rcases results_cases hs with h | ⟨p, code, rx, rest, hp, h, ha⟩ | h
  · exact absurd h.raw hne
  · obtain ⟨o, ph⟩ := ha.raw.resolve_left hne
    exact .inr ⟨o, busy_of_pending hi hp, (busy_eq_false_iff t).mpr ph⟩
  · exact .inl h

/-- Settles O47: the shapes are part of the invariant, and of the steps only an answer and reset write RXBUF. -/
theorem rxbufFollowsTheLastRead : Obligations.RxbufFollowsTheLastRead := by
  intro s t hi hs
  refine ⟨?_, fun hne => ?_⟩
  · rcases hi.rxbufShape with h | ⟨b, h⟩ | ⟨a, b, c, h⟩ <;> rw [h]
    · exact .inl ⟨rfl, rfl, rfl, rfl⟩
    · exact .inr (.inl ⟨rfl, rfl, rfl⟩)
    · exact .inr (.inr rfl)
  · rcases results_cases hs with h | ⟨p, code, rx, rest, hp, h, ha⟩ | h
    · exact absurd h.rxbuf hne
    · exact .inr ⟨⟨p, code, rx, rest, hp, h⟩, ha.rxbuf.resolve_left hne⟩
    · exact .inl h

/-- Settles O48: UREG.RD and UREG.RES change with an answer only, UREG.WR as `uregWr_cases` says. -/
theorem uregFieldsChangeOnlyByTheirOperations : Obligations.UregFieldsChangeOnlyByTheirOperations := by
  intro s t hi hs hreset
  refine ⟨fun hne => ?_, fun hne => ?_, fun htag hw => ?_, fun hne => ?_⟩
  · rcases results_cases hs with h | ⟨p, code, rx, rest, hp, h, ha⟩ | ⟨rest, h⟩
    · exact absurd h.uregRd hne
    · exact ⟨⟨p, code, rx, rest, hp, h⟩, ha.uregRd.resolve_left hne⟩
    · exact absurd h (hreset rest)
  · exact (uregWr_cases hs hreset).resolve_left fun ⟨heq, _⟩ => hne heq
  · rcases uregWr_cases hs hreset with ⟨-, heq | ⟨hop, hph⟩⟩ | ⟨-, h⟩
    · exact absurd heq htag
    · rcases hw with o | ⟨-, ph⟩
      · exact absurd o hop
      · exact absurd ph hph
    · exact h
  · rcases results_cases hs with h | ⟨p, code, rx, rest, hp, h, ha⟩ | ⟨rest, h⟩
    · exact absurd h.uregRes hne
    · exact ⟨⟨p, code, rx, rest, hp, h⟩, ha.uregRes.resolve_left hne⟩
    · exact absurd h (hreset rest)

/-- Settles O49: INIT's start is the only one that writes ACTIVE_PORT and CFG_SNAP, and the write-back the only answer
that writes NEWV. -/
theorem activePortChangesOnlyByInit : Obligations.ActivePortChangesOnlyByInit := by
  intro s t hi hs
  refine ⟨fun v ign rest h hb hd => ?_, fun hinit hreset => ?_, fun hne => ?_⟩
  · rw [accepted_init hs h hb hd]
    exact ⟨rfl, rfl⟩
  · cases step_kind hs with
    | quiet hr ha h => exact ⟨h.activePort, h.cfgSnap⟩
    | refused v rest e h hb hd ht => subst ht; exact ⟨rfl, rfl⟩
    | started v i rest h hb hd hg ht =>
      subst ht
      have hop : i.op ≠ .init := by
        intro hop
        cases i <;> cases hop
        exact hinit v _ rest h hb hd
      obtain ⟨hport, hsnap, -⟩ := startOf_lifecycle hop (accept v (withInputs rest s))
      exact ⟨hport, hsnap⟩
    | answered p code rx rest hp h hc ha => exact ⟨ha.frame.activePort, ha.frame.cfgSnap⟩
    | waited p rest hp h o ph ht => subst ht; exact ⟨rfl, rfl⟩
    | reset rest h ht => exact absurd h (hreset rest)
  · rcases results_cases hs with h | ⟨p, code, rx, rest, hp, h, ha⟩ | h
    · exact absurd h.newv hne
    · rcases ha.writeBack with ⟨-, heq, -⟩ | ⟨o, ph, b, rfl⟩
      · exact absurd heq hne
      · exact .inr ⟨o, ph, rfl⟩
    · exact .inl h
end

section
/-! CFG reaches no running operation: every update an answer or a start other than INIT's makes commutes with replacing
CFG, because none reads it. -/

namespace Sys2Proof.Machine

/-- The state with CFG replaced, as by a host write of CFG. -/
def withCfg (c : Cfg) (s : State) : State := { s with cfg := c }

/-- `f` applied to the next state, if there is one. -/
def mapNext (f : State → State) : Result → Result
  | .next t => .next (f t)
  | .fault e => .fault e
  | .refused r => .refused r

/-- `f` neither reads CFG nor writes it. -/
def CfgBlind (f : State → Result) : Prop := ∀ c s, f (withCfg c s) = mapNext (withCfg c) (f s)

/-- A step that does not read CFG does not write it: replacing CFG by what it holds changes nothing. -/
theorem CfgBlind.frame {f : State → Result} (h : CfgBlind f) {s t : State} (ht : f s = .next t) : t.cfg = s.cfg := by
  have hs : f s = mapNext (withCfg s.cfg) (f s) := h s.cfg s
  rw [ht, mapNext, Host.Outcome.next.injEq] at hs
  calc
    t.cfg = (withCfg s.cfg t).cfg := congrArg State.cfg hs
    _ = s.cfg := rfl

theorem onOutcome_cfgBlind {f g : State → State} (hf : ∀ c s, f (withCfg c s) = withCfg c (f s))
    (hg : ∀ c s, g (withCfg c s) = withCfg c (g s)) (o : TxOutcome) (e : ErrCode) :
    CfgBlind fun s => .next (onOutcome o f e g s) := by
  intro c s
  cases o with
  | ok => exact congrArg Host.Outcome.next (hg c s)
  | _ => exact congrArg (fun u => Host.Outcome.next (complete e u)) (hf c s)

theorem readAnswered_cfgBlind {f : State → State} {g : Byte → State → State}
    (hf : ∀ c s, f (withCfg c s) = withCfg c (f s)) (hg : ∀ b c s, g b (withCfg c s) = withCfg c (g b s))
    (o : TxOutcome) (rx : List Byte) : CfgBlind (readAnswered o rx f g) := by
  intro c s
  unfold readAnswered
  split
  · exact congrArg Host.Outcome.next (hg _ c s)
  · rfl
  · rfl
  all_goals exact congrArg (fun u => Host.Outcome.next (complete _ u)) (hf c s)

theorem measureAnswered_cfgBlind (o : TxOutcome) (rx : List Byte) : CfgBlind (measureAnswered o rx) := by
  intro c s
  unfold measureAnswered
  split <;> rfl

/-! ### The continuations -/

theorem continueInit_cfgBlind (r : Reply) : CfgBlind (continueInit r) := by
  intro c s
  unfold continueInit
  rw [show (withCfg c s).phase = s.phase from rfl]
  split
  · exact onOutcome_cfgBlind (fun _ _ => rfl) (fun _ _ => rfl) _ _ c s
  · exact onOutcome_cfgBlind (fun _ _ => rfl) (fun _ _ => rfl) _ _ c s
  · exact onOutcome_cfgBlind (fun _ _ => rfl) (fun _ _ => rfl) _ _ c s
  all_goals rfl

theorem continueSoftReset_cfgBlind (r : Reply) : CfgBlind (continueSoftReset r) := by
  intro c s
  unfold continueSoftReset
  rw [show (withCfg c s).phase = s.phase from rfl]
  split <;> rfl

theorem continueWriteUreg_cfgBlind (r : Reply) : CfgBlind (continueWriteUreg r) := by
  intro c s
  unfold continueWriteUreg
  rw [show (withCfg c s).phase = s.phase from rfl]
  split <;> rfl

theorem continueReadUreg_cfgBlind (r : Reply) : CfgBlind (continueReadUreg r) := by
  intro c s
  unfold continueReadUreg
  rw [show (withCfg c s).phase = s.phase from rfl]
  split
  · exact onOutcome_cfgBlind (fun _ _ => rfl) (fun _ _ => rfl) _ _ c s
  · exact readAnswered_cfgBlind (fun _ _ => rfl) (fun _ _ _ => rfl) _ _ c s
  all_goals rfl

theorem continueGetResolution_cfgBlind (r : Reply) : CfgBlind (continueGetResolution r) := by
  intro c s
  unfold continueGetResolution
  rw [show (withCfg c s).phase = s.phase from rfl]
  split
  · exact onOutcome_cfgBlind (fun _ _ => rfl) (fun _ _ => rfl) _ _ c s
  · exact readAnswered_cfgBlind (fun _ _ => rfl) (fun _ _ _ => rfl) _ _ c s
  all_goals rfl

theorem continueSetResolution_cfgBlind (r : Reply) : CfgBlind (continueSetResolution r) := by
  intro c s
  unfold continueSetResolution
  rw [show (withCfg c s).phase = s.phase from rfl]
  split
  · exact onOutcome_cfgBlind (fun _ _ => rfl) (fun _ _ => rfl) _ _ c s
  · exact readAnswered_cfgBlind (fun _ _ => rfl) (fun _ _ _ => rfl) _ _ c s
  all_goals rfl

theorem continueMeasure_cfgBlind (r : Reply) : CfgBlind (continueMeasure r) := by
  intro c s
  unfold continueMeasure
  rw [show (withCfg c s).phase = s.phase from rfl]
  split
  · exact onOutcome_cfgBlind (fun _ _ => rfl) (fun _ _ => rfl) _ _ c s
  · rfl
  · exact measureAnswered_cfgBlind _ _ c s
  all_goals rfl

theorem continueOp_cfgBlind (r : Reply) : CfgBlind (continueOp r) := by
  intro c s
  unfold continueOp
  rw [show (withCfg c s).curOp = s.curOp from rfl]
  split
  · exact continueInit_cfgBlind r c s
  · exact continueSoftReset_cfgBlind r c s
  · exact continueReadUreg_cfgBlind r c s
  · exact continueWriteUreg_cfgBlind r c s
  · exact continueGetResolution_cfgBlind r c s
  · exact continueSetResolution_cfgBlind r c s
  · exact continueMeasure_cfgBlind r c s
  · exact continueMeasure_cfgBlind r c s
  all_goals rfl

/-! ### Answers, and the accept step -/

theorem transportAnswer_cfgBlind (tag : Nat) (code : BitVec 3) (rx : List Byte) :
    CfgBlind (transportAnswer tag code rx) := by
  intro c s
  unfold transportAnswer
  rw [show (withCfg c s).pend = s.pend from rfl]
  split
  · rfl
  · split
    · split
      · rfl
      · exact continueOp_cfgBlind _ c (clearPend s)
    · rfl

theorem timerAnswer_cfgBlind (tag : Nat) : CfgBlind (timerAnswer tag) := by
  intro c s
  unfold timerAnswer
  rw [show (withCfg c s).pend = s.pend from rfl]
  split
  · rfl
  · split
    · split
      · exact continueOp_cfgBlind _ c (clearPend s)
      · rfl
    · rfl

theorem startOf_withCfg {i : Instr} (hi : i.op ≠ .init) (c : Cfg) (s : State) :
    startOf i (withCfg c s) = withCfg c (startOf i s) := by
  cases i with
  | init ign => exact absurd rfl hi
  | _ => rfl

/-- The start of INIT is the one accept step that reads CFG (R190). -/
theorem exec_cfgBlind {i : Instr} (hi : i.op ≠ .init) : CfgBlind (exec i) := by
  intro c s
  rw [exec_eq, exec_eq, mapNext]
  rw [show (withCfg c s).busy = s.busy from rfl, show (withCfg c s).initDone = s.initDone from rfl]
  split
  · rfl
  · split
    · rfl
    · exact congrArg Host.Outcome.next (startOf_withCfg hi c (accept (encode i) s))

/-- A CFG-blind step of `s` answers the same with CFG replaced: outcome, fault or refusal. -/
theorem CfgBlind.outcome {f : State → Result} (h : CfgBlind f) (s : State) (c : Cfg) :
    (∀ t, f s = .next t → t.cfg = s.cfg ∧ f (withCfg c s) = .next (withCfg c t)) ∧
    (∀ e, f s = .fault e → f (withCfg c s) = .fault e) ∧
    ∀ r, f s = .refused r → f (withCfg c s) = .refused r :=
  ⟨fun t ht => ⟨h.frame ht, by rw [h, ht, mapNext]⟩, fun e he => by rw [h, he, mapNext],
    fun r hr => by rw [h, hr, mapNext]⟩

/-- The event is handled the same whatever CFG holds, if it is an answer. -/
theorem handle_answer_cfgBlind {e : Event}
    (he : (∃ tag code rx, e = .transport tag code rx) ∨ ∃ tag, e = .elapsed tag) : CfgBlind (handle e) := by
  rcases he with ⟨tag, code, rx, rfl⟩ | ⟨tag, rfl⟩
  · exact transportAnswer_cfgBlind tag code rx
  · exact timerAnswer_cfgBlind tag

end Sys2Proof.Machine

open Sys2Proof Sys2Proof.Machine

/-- Settles O50: answers and the accept steps other than INIT's are CFG-blind. -/
theorem runningOperationDoesNotReadCfg : Obligations.RunningOperationDoesNotReadCfg := by
  refine ⟨fun s c e rest h he => ?_, fun i s c hi => ?_⟩
  · rw [step_cons h, step_cons (s := { s with cfg := c }) h]
    exact (handle_answer_cfgBlind he).outcome (withInputs rest s) c
  · obtain ⟨t, ht⟩ := exec_next i s
    exact ⟨t, ht, ((exec_cfgBlind hi).outcome s c).1 t ht⟩
end

section
/-! The words the host reads: for each register the layout of its word, bit by bit, and from it where its fields are; then
what a write of STATUS, CFG or a reserved word does. -/

namespace Sys2Proof.Machine

/-! ### Layouts -/

/-- A field of a word, from its bits. -/
theorem extractLsb'_eq_of_bits {w : Word} {start len : Nat} {f : BitVec len}
    (h : ∀ i < len, w.getLsbD (start + i) = f.getLsbD i) : w.extractLsb' start len = f :=
  BitVec.eq_of_getLsbD_eq fun i hi => by simpa [BitVec.getLsbD_extractLsb', hi] using h i hi

/-- CFG (R33). -/
theorem cfgWord_getLsbD (c : Cfg) (i : Nat) : c.word.getLsbD i =
    if i < 8 then c.sdaPin.getLsbD i
    else if i < 16 then c.sclPin.getLsbD (i - 8)
    else if i = 16 then c.sdaPu
    else if i = 17 then c.sclPu
    else if i < 20 then false
    else if i < 24 then c.port.getLsbD (i - 20)
    else false := by
  simp only [Cfg.word, BitVec.getLsbD_append]
  grind

/-- STATUS (R37). -/
theorem statusWord_getLsbD (s : State) (i : Nat) : s.statusWord.getLsbD i =
    if i = 0 then s.busy
    else if i = 1 then s.done
    else if i = 2 then s.initDone
    else if i = 3 then s.crcChecked
    else if i = 4 then s.crcOk
    else if i = 5 then s.drop
    else if i < 8 then false
    else if i < 12 then s.err.code.getLsbD (i - 8)
    else if i < 16 then false
    else if i < 20 then s.lastOp.getLsbD (i - 16)
    else if i < 23 then s.phase.code.getLsbD (i - 20)
    else if i = 23 then false
    else if i < 28 then s.activePort.getLsbD (i - 24)
    else false := by
  simp only [State.statusWord, BitVec.getLsbD_append]
  grind (splits := 30)

/-- RAW (R48). -/
theorem rawWord_getLsbD (r : Raw) (i : Nat) : r.toWord.getLsbD i =
    if i < 16 then r.word.getLsbD i
    else if i < 18 then r.stat.getLsbD (i - 16)
    else false := by
  simp only [Raw.toWord, BitVec.getLsbD_append]
  grind

/-- RXBUF (R50). -/
theorem rxbufWord_getLsbD (r : Rxbuf) (i : Nat) : r.toWord.getLsbD i =
    if i < 8 then r.b0.getLsbD i
    else if i < 16 then r.b1.getLsbD (i - 8)
    else if i < 24 then r.b2.getLsbD (i - 16)
    else if i < 26 then r.count.getLsbD (i - 24)
    else false := by
  simp only [Rxbuf.toWord, BitVec.getLsbD_append]
  grind

/-- UREG (R52). -/
theorem uregWord_getLsbD (s : State) (i : Nat) : s.uregWord.getLsbD i =
    if i < 8 then s.uregRd.getLsbD i
    else if i < 16 then s.uregWr.getLsbD (i - 8)
    else if i < 24 then s.uregRes.getLsbD (i - 16)
    else false := by
  simp only [State.uregWord, BitVec.getLsbD_append]
  grind

/-! ### Fields -/

theorem cfgWord_fields (c : Cfg) :
    c.word.extractLsb' 0 8 = c.sdaPin ∧ c.word.extractLsb' 8 8 = c.sclPin ∧ c.word.getLsbD 16 = c.sdaPu ∧
      c.word.getLsbD 17 = c.sclPu ∧ c.word.extractLsb' 20 4 = c.port := by
  refine ⟨extractLsb'_eq_of_bits fun i hi => ?_, extractLsb'_eq_of_bits fun i hi => ?_, ?_, ?_,
    extractLsb'_eq_of_bits fun i hi => ?_⟩
  all_goals grind [cfgWord_getLsbD]

theorem rawWord_fields (r : Raw) : r.toWord.extractLsb' 0 16 = r.word ∧ r.toWord.extractLsb' 16 2 = r.stat := by
  refine ⟨extractLsb'_eq_of_bits fun i hi => ?_, extractLsb'_eq_of_bits fun i hi => ?_⟩
  all_goals grind [rawWord_getLsbD]

theorem rxbufWord_fields (r : Rxbuf) :
    r.toWord.extractLsb' 0 8 = r.b0 ∧ r.toWord.extractLsb' 8 8 = r.b1 ∧ r.toWord.extractLsb' 16 8 = r.b2 ∧
      r.toWord.extractLsb' 24 2 = r.count := by
  refine ⟨extractLsb'_eq_of_bits fun i hi => ?_, extractLsb'_eq_of_bits fun i hi => ?_,
    extractLsb'_eq_of_bits fun i hi => ?_, extractLsb'_eq_of_bits fun i hi => ?_⟩
  all_goals grind [rxbufWord_getLsbD]

theorem uregWord_fields (s : State) :
    s.uregWord.extractLsb' 0 8 = s.uregRd ∧ s.uregWord.extractLsb' 8 8 = s.uregWr ∧
      s.uregWord.extractLsb' 16 8 = s.uregRes := by
  refine ⟨extractLsb'_eq_of_bits fun i hi => ?_, extractLsb'_eq_of_bits fun i hi => ?_,
    extractLsb'_eq_of_bits fun i hi => ?_⟩
  all_goals grind [uregWord_getLsbD]

theorem statusWord_flags (s : State) :
    s.statusWord.getLsbD 0 = s.busy ∧ s.statusWord.getLsbD 1 = s.done ∧ s.statusWord.getLsbD 2 = s.initDone ∧
      s.statusWord.getLsbD 3 = s.crcChecked ∧ s.statusWord.getLsbD 4 = s.crcOk ∧ s.statusWord.getLsbD 5 = s.drop := by
  simp only [statusWord_getLsbD]
  exact ⟨rfl, rfl, rfl, rfl, rfl, rfl⟩

theorem statusWord_fields (s : State) :
    s.statusWord.extractLsb' 8 4 = s.err.code ∧ s.statusWord.extractLsb' 16 4 = s.lastOp ∧
      s.statusWord.extractLsb' 20 3 = s.phase.code ∧ s.statusWord.extractLsb' 24 4 = s.activePort := by
  refine ⟨extractLsb'_eq_of_bits fun i hi => ?_, extractLsb'_eq_of_bits fun i hi => ?_,
    extractLsb'_eq_of_bits fun i hi => ?_, extractLsb'_eq_of_bits fun i hi => ?_⟩
  all_goals grind [statusWord_getLsbD]

theorem statusWord_reserved (s : State) :
    s.statusWord.extractLsb' 6 2 = 0#2 ∧ s.statusWord.extractLsb' 12 4 = 0#4 ∧ s.statusWord.getLsbD 23 = false ∧
      s.statusWord.extractLsb' 28 4 = 0#4 := by
  refine ⟨extractLsb'_eq_of_bits fun i hi => ?_, extractLsb'_eq_of_bits fun i hi => ?_, ?_,
    extractLsb'_eq_of_bits fun i hi => ?_⟩
  all_goals grind [statusWord_getLsbD]

theorem busy_eq_decide (s : State) : s.busy = decide (s.phase ≠ .idle) := by unfold State.busy; cases s.phase <;> rfl

/-! ### Writes -/

/-- CFG keeps the written bits of its fields, and the others read 0 (R33). -/
theorem cfgWord_ofWord (v : Word) : (Cfg.ofWord v).word = v &&& 0x00F3FFFF#32 := by
  apply BitVec.eq_of_getLsbD_eq
  intro i hi
  simp only [cfgWord_getLsbD, Cfg.ofWord, BitVec.getLsbD_extractLsb', BitVec.getLsbD_and]
  interval_cases i <;> simp [pinW, portW]

theorem writeStatus_eq (v : Word) (s : State) :
    s.writeStatus v = { s with
      done := if v.getLsbD 1 = true then false else s.done
      drop := if v.getLsbD 5 = true then false else s.drop } := by
  unfold State.writeStatus
  cases v.getLsbD 1 <;> cases v.getLsbD 5 <;> simp

end Sys2Proof.Machine

open Sys2Proof Sys2Proof.Machine

/-- Settles O34: at both offsets a read takes the word 0 and a write is ignored. -/
theorem reservedOffsetsReadZeroAndIgnoreWrites : Obligations.ReservedOffsetsReadZeroAndIgnoreWrites := by
  rintro s off v rest (rfl | rfl)
  all_goals exact ⟨fun h => step_hostRead h rfl (by decide), fun h => step_hostWrite h rfl (by decide)⟩

/-- Settles O36, from the layouts of the registers. -/
theorem registersReadTheirFields : Obligations.RegistersReadTheirFields := by
  refine ⟨fun s => ⟨⟨_, rfl, cfgWord_fields s.cfg⟩, rfl, ⟨_, rfl, rawWord_fields s.raw⟩, ⟨_, rfl, rxbufWord_fields s.rxbuf⟩,
    ⟨_, rfl, uregWord_fields s⟩⟩, fun s v rest h => ?_⟩
  exact ⟨_, step_hostWrite h rfl (by decide), congrArg some (cfgWord_ofWord v)⟩

/-- Settles O35, from the layout of STATUS. -/
theorem statusReadsItsFieldsAndClearsOnWrite : Obligations.StatusReadsItsFieldsAndClearsOnWrite := by
  refine ⟨fun s => ⟨s.statusWord, rfl, ?_⟩, fun s v rest h => ?_, by decide⟩
  · obtain ⟨hbusy, hdone, hinit, hchecked, hok, hdrop⟩ := statusWord_flags s
    obtain ⟨herr, hop, hphase, hport⟩ := statusWord_fields s
    obtain ⟨hres6, hres12, hres23, hres28⟩ := statusWord_reserved s
    refine ⟨hbusy.trans (busy_eq_decide s), hdone, hinit, hchecked, hok, hdrop, hres6, herr.trans ?_, hres12, hop,
      hphase.trans ?_, hres23, hport, hres28⟩
    · cases s.err <;> rfl
    · cases s.phase <;> rfl
  · rw [step_hostWrite h rfl (by decide)]
    exact congrArg Host.Outcome.next (writeStatus_eq v _)
end

section
/-! The host port: what an admitted read returns and an admitted write answers, which accesses are refused, and that an
access goes by its address alone. -/

namespace Sys2Proof.Machine

/-! ### Reads -/

/-- A register's value depends neither on the schedule nor on what the host has read. -/
theorem registerWord_of_inputs_hostReads (s : State) (l : List Event) (ws : List Word) (off : Nat) :
    registerWord { s with inputs := l, hostReads := ws } off = registerWord s off := by
  unfold registerWord
  split <;> rfl

/-- An admitted read takes the value of the register at the offset, and changes nothing of SSEQ (R85). -/
theorem step_hostRead_eq {s : State} {off : Nat} {w : Word} {rest : List Event} (h : HostReads s.inputs off 4 rest)
    (h4 : off % 4 = 0) (hl : off < 0x20) (hw : registerWord s off = some w) :
    step s = .next { s with inputs := rest, hostReads := w :: s.hostReads } := by
  rw [step_hostRead h h4 hl]
  have hw' : registerWord (withInputs rest s) off = some w :=
    (registerWord_of_inputs_hostReads s rest s.hostReads off).trans hw
  simp only [registerRead, hw']
  rfl

/-! ### Reserved bits -/

theorem and_eq_zero_of_bits {w m : Word} (h : ∀ i < 32, m.getLsbD i = true → w.getLsbD i = false) : w &&& m = 0#32 := by
  apply BitVec.eq_of_getLsbD_eq
  intro i hi
  cases hm : m.getLsbD i with
  | false => simp [hm]
  | true => simp [h i hi hm]

theorem cfgWord_and_reservedMask (c : Cfg) : c.word &&& 0xFF0C0000#32 = 0#32 :=
  and_eq_zero_of_bits fun i hi hm => by
    have hbit : i = 18 ∨ i = 19 ∨ 24 ≤ i := by decide +revert
    grind [cfgWord_getLsbD]

theorem statusWord_and_reservedMask (s : State) : s.statusWord &&& 0xF080F0C0#32 = 0#32 :=
  and_eq_zero_of_bits fun i hi hm => by
    have hbit : i = 6 ∨ i = 7 ∨ 12 ≤ i ∧ i < 16 ∨ i = 23 ∨ 28 ≤ i := by decide +revert
    grind (splits := 30) [statusWord_getLsbD]

theorem rawWord_and_reservedMask (r : Raw) : r.toWord &&& 0xFFFC0000#32 = 0#32 :=
  and_eq_zero_of_bits fun i hi hm => by
    have hbit : 18 ≤ i := by decide +revert
    grind [rawWord_getLsbD]

theorem rxbufWord_and_reservedMask (r : Rxbuf) : r.toWord &&& 0xFC000000#32 = 0#32 :=
  and_eq_zero_of_bits fun i hi hm => by
    have hbit : 26 ≤ i := by decide +revert
    grind [rxbufWord_getLsbD]

theorem uregWord_and_reservedMask (s : State) : s.uregWord &&& 0xFF000000#32 = 0#32 :=
  and_eq_zero_of_bits fun i hi hm => by
    have hbit : 24 ≤ i := by decide +revert
    grind [uregWord_getLsbD]

/-! ### Writes -/

theorem startOf_inputs (i : Instr) (s : State) : (startOf i s).inputs = s.inputs := by cases i <;> rfl

theorem hostWriteCmd_next (v : Word) (s : State) : ∃ t, hostWriteCmd v s = .next t := by
  cases hd : decode v with
  | ok i => rw [hostWriteCmd_ok hd]; exact exec_next i s
  | error r => rw [hostWriteCmd_reserved hd]; exact ⟨_, rfl⟩

theorem registerWrite_next {off : Nat} (h4 : off % 4 = 0) (hl : off < 0x20) (v : Word) (s : State) :
    ∃ t, registerWrite off v s = .next t := by
  rcases offset_cases h4 hl with rfl | rfl | rfl | rfl | rfl | rfl | rfl | rfl
  case inr.inl => exact hostWriteCmd_next v s
  all_goals exact ⟨_, rfl⟩

theorem step_hostWrite_next {s : State} {off : Nat} {v : Word} {rest : List Event}
    (h : HostWrites s.inputs off 4 v rest) (h4 : off % 4 = 0) (hl : off < 0x20) : ∃ t, step s = .next t := by
  rw [step_hostWrite h h4 hl]
  exact registerWrite_next h4 hl v _

theorem step_statusWrite {s : State} {v : Word} {rest : List Event} (h : HostWrites s.inputs 0x08 4 v rest) :
    step s = .next (State.writeStatus v (withInputs rest s)) := step_hostWrite h rfl (by decide)

/-- Where 1 was written DONE and DROP are 0 already, so the same STATUS write again changes nothing more (R84). -/
theorem writeStatus_again (v : Word) (l : List Event) (s : State) :
    State.writeStatus v (withInputs l (State.writeStatus v s)) = State.writeStatus v (withInputs l s) := by
  simp only [State.writeStatus, withInputs, Bool.and_assoc, Bool.and_self]

/-- A CMD write is latched while IDLE and dropped while BUSY; the schedule goes on either way (R84, R150). -/
theorem step_cmdWrite_effect {s : State} {v : Word} {rest : List Event} (h : HostWrites s.inputs 0x04 4 v rest) :
    ∃ t, step s = .next t ∧ t.inputs = rest ∧ (s.busy = false → t.cmdl = v) ∧
      (s.busy = true → t = { s with inputs := rest, drop := true }) := by
  obtain ⟨t, hs⟩ := step_hostWrite_next h rfl (by decide)
  refine ⟨t, hs, ?_⟩
  cases hb : s.busy with
  | true =>
    obtain rfl := dropped_eq hs h hb
    exact ⟨rfl, nofun, fun _ => rfl⟩
  | false =>
    rcases accepted_cases hs h hb with ⟨⟨e, rfl⟩, -⟩ | ⟨i, -, rfl⟩
    · exact ⟨rfl, fun _ => rfl, nofun⟩
    · exact ⟨startOf_inputs i _, fun _ => (startOf_frame i _).cmdl, nofun⟩

/-! ### Addresses -/

/-- A host access goes by its address, however it is written (R82). -/
theorem hostAccess_of_value_eq {a b : HostAddr} (h : a.value Config.params = b.value Config.params) (size : Nat) (v : Word)
    (s : State) : hostAccess (.read a size) s = hostAccess (.read b size) s ∧
      hostAccess (.write a size v) s = hostAccess (.write b size v) s := by
  have ho : a.offset Config.params = b.offset Config.params := by simp only [offset_eq_windowOffset, h]
  simp only [hostAccess, ho, and_self]

/-- The step refuses an access of another shape, or at an address that reaches no offset (R83). -/
theorem step_refused {s : State} {a : Access} {addr : HostAddr} {size : Nat} {rest : List Event}
    (hi : s.inputs = .host a :: rest) (ha : a = .read addr size ∨ ∃ v, a = .write addr size v)
    (h : ∀ off, addr.offset Config.params = some off → admitted off size = false) :
    step s = .refused .accessNotAdmitted := by
  rw [step_cons hi]
  exact hostAccess_refused _ ha h

/-- At `SSEQ_BASE + off` the port sees the offset `off` or none, so an access of another shape there is not admitted. -/
theorem not_admitted_of_value {addr : HostAddr} {off size : Nat}
    (hv : addr.value Config.params = hostAddress Config.params off) (hn : ¬ (size = 4 ∧ off % 4 = 0 ∧ off ≤ 0x1C))
    (off' : Nat) (ho : addr.offset Config.params = some off') : admitted off' size = false := by
  obtain ⟨-, hv'⟩ := offset_eq_some_iff.mp ho
  obtain rfl := hostAddress_injective (hv.symm.trans hv')
  rw [Bool.eq_false_iff]
  intro ha
  obtain ⟨hsize, h4, hl⟩ := admitted_offsets ha
  exact hn ⟨hsize, h4, by omega⟩

end Sys2Proof.Machine

open Sys2Proof Sys2Proof.Machine

/-- Settles O31: a register answers every admitted access, and the port has no offset for an address outside the
window. -/
theorem onlyAlignedWordAccessesAreAdmitted : Obligations.OnlyAlignedWordAccessesAreAdmitted := by
  intro s off size v rest
  refine ⟨?_, fun hn => ⟨?_, ?_⟩, fun addr hout hi => ?_⟩
  · rintro ⟨rfl, h4, hle⟩
    have hl : off < 0x20 := by omega
    obtain ⟨w, hw⟩ := registerWord_isSome s h4 hl
    exact ⟨fun h => ⟨_, step_hostRead_eq h h4 hl hw⟩, fun h => step_hostWrite_next h h4 hl⟩
  · rintro ⟨e, hi, addr, rfl, hv⟩
    exact step_refused hi (.inl rfl) (not_admitted_of_value hv hn)
  · rintro ⟨e, hi, addr, rfl, hv⟩
    exact step_refused hi (.inr ⟨v, rfl⟩) (not_admitted_of_value hv hn)
  · have hnone : ∀ off', addr.offset Config.params = some off' → admitted off' size = false := by
      simp [offset_eq_none_iff.mpr hout]
    rcases hi with hi | hi
    · exact step_refused hi (.inl rfl) hnone
    · exact step_refused hi (.inr ⟨v, rfl⟩) hnone

/-- Settles O32: the value read is the register's, whose layout leaves the reserved bits 0, and a read writes nothing
that a register shows. -/
theorem hostReadsHaveNoSideEffect : Obligations.HostReadsHaveNoSideEffect := by
  intro s off rest h4 hle h
  have hl : off < 0x20 := by omega
  obtain ⟨w, hw⟩ := registerWord_isSome s h4 hl
  have hs := step_hostRead_eq h h4 hl hw
  refine ⟨w, hw, hs, ?_, fun rest' h' => ?_⟩
  · rcases offset_cases h4 hl with rfl | rfl | rfl | rfl | rfl | rfl | rfl | rfl <;> cases hw
    · exact cfgWord_and_reservedMask s.cfg
    · exact BitVec.and_zero
    · exact statusWord_and_reservedMask s
    · exact rawWord_and_reservedMask s.raw
    · exact rxbufWord_and_reservedMask s.rxbuf
    · exact uregWord_and_reservedMask s
    · rfl
    · rfl
  · have hw' := (registerWord_of_inputs_hostReads s rest (w :: s.hostReads) off).trans hw
    rw [run_next hs, run_next (step_hostRead_eq h' h4 hl hw')]
    rfl

/-- Settles O33: CFG and STATUS take their fields, the read-only words nothing, and a CMD write is a command request,
the second of two as much as the first. -/
theorem hostWritesActByRegister : Obligations.HostWritesActByRegister := by
  intro s v rest
  refine ⟨fun h => step_hostWrite h rfl (by decide), fun h => ?_, fun off hoff h => ?_, fun h => ?_⟩
  · have hs := step_statusWrite h
    refine ⟨hs, fun rest' h' => ?_⟩
    have hs' := step_statusWrite (s := State.writeStatus v (withInputs rest s)) h'
    rw [writeStatus_again] at hs'
    rw [run_next hs, run_next hs']
    rfl
  · simp only [List.mem_cons, List.not_mem_nil, or_false] at hoff
    rcases hoff with rfl | rfl | rfl | rfl | rfl <;> exact step_hostWrite h rfl (by decide)
  · obtain ⟨t, hs, rfl, hidle, hbusy⟩ := step_cmdWrite_effect h
    refine ⟨t, hs, hidle, hbusy, fun rest' h' => ?_⟩
    obtain ⟨u, hu, -, hidle', hbusy'⟩ := step_cmdWrite_effect h'
    exact ⟨u, by rw [run_next hs, run_next hu]; rfl, hbusy', hidle'⟩

/-- Settles O60: the window offset of an access is a function of its address. -/
theorem windowAddressesAreBaseRelative : Obligations.WindowAddressesAreBaseRelative := by
  refine ⟨fun p => ⟨Nat.mul_mod_right 32 p.baseIndex, fun addr off => offset_eq_some_iff⟩,
    fun s a b size v rest h => hostAccess_of_value_eq h size v (withInputs rest s), fun s addr off v rest h4 hle hv => ?_⟩
  have hl : off < 0x20 := by omega
  constructor
  · intro hi
    obtain ⟨w, hw⟩ := registerWord_isSome s h4 hl
    exact ⟨w, hw, step_hostRead_eq ⟨_, hi, addr, rfl, hv⟩ h4 hl hw⟩
  · intro hi
    exact step_hostWrite ⟨_, hi, addr, rfl, hv⟩ h4 hl

/-- Settles O37: the byte at `off + k` is lane `k` of the register at `off`. -/
theorem byteLanesAreLittleEndian : Obligations.ByteLanesAreLittleEndian := by
  refine ⟨fun s off k j w h4 hw hk hj => ⟨lane w k, ?_, ?_⟩, ofLanes_lanes⟩
  · have hlane : (off + k) % 4 = k := by omega
    have hreg : off + k - k = off := by omega
    simp only [windowByte, hlane, hreg, hw, Option.map_some]
  · simp [lane, hj]
end

section
/-! The two encoded formats: the decoder by the fields of the word, and the round trips of CMD words and of link
primitives (30_encoding.md). -/

namespace Sys2Proof

/-! ### The decoder by the fields of the word -/

theorem ofCode_eq_none {c : BitVec 4} (h : c = 0x0#4 ∨ 0xA ≤ c.toNat) : Op.ofCode c = none := by decide +revert

/-- RSV is tested first (R116). -/
theorem decode_of_rsv {w : Word} (hr : fieldRsv w ≠ 0#4) : decode w = .error .rsvNotZero := by
  rw [decode, if_neg hr]

theorem decode_of_code {w : Word} {o : Op} (hr : fieldRsv w = 0#4) (ho : fieldOp w = o.code) :
    decode w = .ok (Instr.ofFields o w) := by
  rw [decode, if_pos hr, ho, ofCode_code]

theorem decode_of_reservedOp {w : Word} (hr : fieldRsv w = 0#4) (ho : Op.ofCode (fieldOp w) = none) :
    decode w = .error .opReserved := by
  rw [decode, if_pos hr, ho]

/-- The operands stand in the encoded word where the decoder takes them from (R114). -/
theorem ofFields_encode (i : Instr) : Instr.ofFields i.op (encode i) = i := by
  cases i <;> simp [Instr.op, Instr.ofFields, encode]

theorem decode_encode (i : Instr) : decode (encode i) = .ok i := by
  rw [decode_of_code (fieldRsv_encode i) (fieldOp_encode i), ofFields_encode]

/-! ### Link primitives -/

theorem code_kindOfCode (c : BitVec 2) : (PrimKind.ofCode c).code = c := by decide +revert

theorem primWord_getLsbD (q : Prim) (i : Nat) : q.encode.getLsbD i =
    if i < 8 then q.data.getLsbD i
    else if i = 8 then q.flag
    else q.kind.code.getLsbD (i - 9) := by
  simp only [Prim.encode, BitVec.getLsbD_append]
  grind

theorem primWord_kind (q : Prim) : q.encode.extractLsb' 9 2 = q.kind.code :=
  BitVec.eq_of_getLsbD_eq fun i hi => by
    simp [hi, primWord_getLsbD, show ¬ 9 + i < 8 by omega, show 9 + i ≠ 8 by omega]

theorem primWord_flag (q : Prim) : q.encode.getLsbD 8 = q.flag := primWord_getLsbD q 8

theorem primWord_data (q : Prim) : q.encode.extractLsb' 0 8 = q.data :=
  BitVec.eq_of_getLsbD_eq fun i hi => by simp [hi, primWord_getLsbD]

theorem primDecode_encode (q : Prim) : Prim.decode q.encode = q := by
  rw [Prim.decode, primWord_kind, primWord_flag, primWord_data, ofCode_kindCode]

theorem primEncode_decode (v : BitVec 11) : (Prim.decode v).encode = v := by
  apply BitVec.eq_of_getLsbD_eq
  intro i hi
  simp only [primWord_getLsbD, Prim.decode, code_kindOfCode, BitVec.getLsbD_extractLsb']
  grind

end Sys2Proof

open Sys2Proof Sys2Proof.Machine

/-- Settles O1: the encoded word has RSV 0 and the operation's code, and its argument fields are the operands. -/
theorem decodeOfEncodeIsTheInstruction : Obligations.DecodeOfEncodeIsTheInstruction := decode_encode

/-- Settles O2: a word that decodes is made of its own fields. -/
theorem encodeOfDecodeIsTheWord : Obligations.EncodeOfDecodeIsTheWord := fun _ _ => encode_of_decode_ok

/-- Settles O3: one clause per case of the decoder. -/
theorem decodeReadsTheFieldsOfTheWord : Obligations.DecodeReadsTheFieldsOfTheWord := by
  refine fun w => ⟨fun hr => ⟨_, decode_of_rsv hr⟩, fun hr => ⟨?_, ?_, ?_, ?_, ?_, ?_, ?_, ?_, ?_, ?_⟩⟩
  · exact fun h => ⟨_, decode_of_code (o := .init) hr h⟩
  · exact fun h => ⟨_, decode_of_code (o := .softReset) hr h⟩
  · exact fun h => ⟨_, decode_of_code (o := .readUreg) hr h⟩
  · exact fun h => ⟨_, decode_of_code (o := .writeUreg) hr h⟩
  · exact fun h => ⟨_, decode_of_code (o := .getResolution) hr h⟩
  · exact fun h => ⟨_, decode_of_code (o := .setResolution) hr h⟩
  · exact fun h => ⟨_, decode_of_code (o := .measureT) hr h⟩
  · exact fun h => ⟨_, decode_of_code (o := .measureRh) hr h⟩
  · exact fun h => decode_of_code (o := .crcCheck) hr h
  · exact fun h => ⟨_, decode_of_reservedOp hr (ofCode_eq_none h)⟩

/-- Settles O4: the first nine words are the encodings of the operations they decode to; of the reserved ones two have a
reserved OP and the last has RSV 1. -/
theorem sampleWordsDecodeAsTheSpecEncodesThem : Obligations.SampleWordsDecodeAsTheSpecEncodesThem :=
  ⟨decode_encode (.init 0#24), decode_encode (.softReset 0#24), decode_encode (.readUreg 0#24),
    decode_encode (.writeUreg 0x3A#8 0#16), decode_encode (.getResolution 0#24), decode_encode (.setResolution 0x81#8 0#16),
    decode_encode (.measureT 0xFFFFFF#24), decode_encode (.measureRh 0#24), decode_encode (.crcCheck 0x683A#16 0x7C#8),
    decode_of_reservedOp rfl rfl, decode_of_reservedOp rfl rfl, decode_of_rsv (by decide)⟩

/-- Settles O5: the three fields of a primitive's word, and from them both round trips. -/
theorem linkPrimitiveWordsRoundTrip : Obligations.LinkPrimitiveWordsRoundTrip := by
  refine ⟨fun q => ⟨?_, primWord_flag q, primWord_data q, primDecode_encode q⟩, primEncode_decode⟩
  rw [primWord_kind]
  cases q.kind <;> rfl
end

section
/-! The links a step issues: a transaction that is pending in a state that meets the invariant is a write link or a read
link of 40_sequencer_core.md R160 and R161, and either is made of the five primitives of R121. -/

namespace Sys2Proof.Machine

/-! ### Address bytes and primitive words -/

/-- Bit 0 is the direction, the address stands above it (R125). -/
theorem append_direction (a : BitVec 7) (d : BitVec 1) :
    (a ++ d : BitVec (7 + 1)) = (a.setWidth 8 <<< 1 ||| d.setWidth 8) := by
  rw [BitVec.append_def, BitVec.shiftLeftZeroExtend_eq, BitVec.setWidth'_eq]

theorem primW_word (b : Byte) : (primW b).encode = 0x300#11 ||| b.setWidth 11 := by
  apply BitVec.eq_of_getLsbD_eq
  intro i hi
  simp only [primWord_getLsbD, BitVec.getLsbD_or, BitVec.getLsbD_setWidth]
  interval_cases i <;> simp [primW, PrimKind.code]

/-! ### The shape of a pending link -/

/-- A link of R160 or of R161. -/
def Framed (p : Params) (l : Link) : Prop := (∃ bytes, l = writeLink p bytes) ∨ ∃ n, l = readLink p n

theorem framed_of_txnRequest {s : State} {f : Params → Link} {port : Port} {l : Link} {tmo : Nat}
    (h : Request.txn port l tmo = txnRequest s f) (hf : Framed Config.params (f Config.params)) :
    Framed Config.params l := by
  cases h
  exact hf

/-- Each control position waits for a framed link, or for something else than a transaction. -/
theorem framed_of_pending {s : State} {tag : Nat} {port : Port} {l : Link} {tmo : Nat} (hi : s.Inv)
    (hp : s.pend = some ⟨tag, .txn port l tmo⟩) : Framed Config.params l := by
  cases position_of_pending hi hp <;> rename_i hr
  case initConfigure | initInstall | wait => cases hr
  case readByte | getByte | setByte | measureRead => exact framed_of_txnRequest hr (.inr ⟨_, rfl⟩)
  case trigger =>
    refine framed_of_txnRequest hr ?_
    split
    · exact .inl ⟨_, rfl⟩
    · exact .inl ⟨_, rfl⟩
  all_goals exact framed_of_txnRequest hr (.inl ⟨_, rfl⟩)

theorem prim_of_mem_framed {p : Params} {l : Link} {q : Prim} (h : Framed p l) (hq : q ∈ l) :
    q = primS ∨ (∃ b, q = primW b) ∨ q = primRA ∨ q = primRN ∨ q = primP := by
  rcases h with ⟨bytes, rfl⟩ | ⟨n, rfl⟩
  · simp only [writeLink, List.mem_cons, List.mem_append, List.mem_map, List.not_mem_nil, or_false] at hq
    rcases hq with rfl | rfl | ⟨b, -, rfl⟩ | rfl
    · exact .inl rfl
    · exact .inr (.inl ⟨_, rfl⟩)
    · exact .inr (.inl ⟨_, rfl⟩)
    · exact .inr (.inr (.inr (.inr rfl)))
  · simp only [readLink, List.mem_cons, List.mem_append, List.mem_replicate, List.not_mem_nil, or_false] at hq
    rcases hq with rfl | rfl | ⟨-, rfl⟩ | rfl | rfl
    · exact .inl rfl
    · exact .inr (.inl ⟨_, rfl⟩)
    · exact .inr (.inr (.inl rfl))
    · exact .inr (.inr (.inr (.inl rfl)))
    · exact .inr (.inr (.inr (.inr rfl)))

end Sys2Proof.Machine

open Sys2Proof Sys2Proof.Machine

/-- Settles O6: both bytes are the address with its direction bit below it. -/
theorem addressBytesCarryAddressAndDirection : Obligations.AddressBytesCarryAddressAndDirection := by
  refine fun p => ⟨append_direction p.sensorAddr 0#1, append_direction p.sensorAddr 1#1, fun h => ?_⟩
  rw [addrWrite, addrRead, h]
  exact ⟨rfl, rfl⟩

/-- Settles O8: the step keeps the invariant, under which the pending link is the one of the control position. -/
theorem issuedLinksHaveTheFramedShape : Obligations.IssuedLinksHaveTheFramedShape :=
  fun s t hi hs _ _ _ _ _ hp => framed_of_pending (everyStepKeepsTheInvariant s t hi hs) hp

/-- Settles O9: a framed link is made of the five primitives, and RD3 has them all. -/
theorem issuedPrimitivesAreTheFiveOfTheSpec : Obligations.IssuedPrimitivesAreTheFiveOfTheSpec := by
  refine ⟨⟨rfl, primW_word, rfl, rfl, rfl⟩, fun p => ?_, fun s t hi hs _ _ _ _ _ hp q hq => ?_⟩
  · simp [linkRd3, readLink, List.replicate]
  · exact prim_of_mem_framed (framed_of_pending (everyStepKeepsTheInvariant s t hi hs) hp) hq
end

section
/-! What the assembler makes of a pseudo-instruction: its word, as a number, is the encoder's word (R141). -/

namespace Sys2Proof.Machine

theorem assemble_of_wf {t : Stmt} (h : t.wf = true) : assemble t = some (stmtAccesses t) := by rw [assemble, if_pos h]

theorem assemble_of_not_wf {t : Stmt} (h : t.wf = false) : assemble t = none := by simp [assemble, h]

/-! ### Words as numbers -/

theorem toNat_cmdWord (a : BitVec 24) (o : Op) : (cmdWord a o).toNat = a.toNat <<< 8 ||| o.code.toNat := by
  unfold cmdWord
  rw [BitVec.toNat_append, BitVec.toNat_append, Nat.shiftLeft_or_distrib, ← Nat.shiftLeft_add]
  simp

theorem toNat_cmdWord2 (hi : Half) (lo : Byte) (o : Op) :
    (cmdWord2 hi lo o).toNat = hi.toNat <<< 16 ||| lo.toNat <<< 8 ||| o.code.toNat := by
  rw [cmdWord2, toNat_cmdWord, BitVec.toNat_append, Nat.shiftLeft_or_distrib, ← Nat.shiftLeft_add]

theorem cmdWord2_eq_ofNat {d c : Nat} (hd : d < 0x10000) (hc : c < 0x100) (o : Op) :
    cmdWord2 (BitVec.ofNat 16 d) (BitVec.ofNat 8 c) o = BitVec.ofNat 32 (d <<< 16 ||| c <<< 8 ||| o.code.toNat) := by
  have hn : (cmdWord2 (BitVec.ofNat 16 d) (BitVec.ofNat 8 c) o).toNat = d <<< 16 ||| c <<< 8 ||| o.code.toNat := by
    rw [toNat_cmdWord2, BitVec.toNat_ofNat, BitVec.toNat_ofNat, Nat.mod_eq_of_lt hd, Nat.mod_eq_of_lt hc]
  rw [← hn, BitVec.ofNat_toNat, BitVec.setWidth_eq]

theorem toNat_ofBool_decide_eq_one {n : Nat} (h : n < 2) : (BitVec.ofBool (decide (n = 1))).toNat = n := by
  interval_cases n <;> rfl

/-- The word of SETCFG is the word CFG then shows (R141, R33). -/
theorem setCfgWord_eq_cfgWord {port sda scl sdaPu sclPu : Nat} (hport : port < 0x10) (hsda : sda < 0x100)
    (hscl : scl < 0x100) (hsdaPu : sdaPu < 2) (hsclPu : sclPu < 2) :
    setCfgWord port sda scl sdaPu sclPu =
      Cfg.word ⟨BitVec.ofNat 8 sda, BitVec.ofNat 8 scl, decide (sdaPu = 1), decide (sclPu = 1), BitVec.ofNat 4 port⟩ := by
  have hn : (Cfg.word ⟨BitVec.ofNat 8 sda, BitVec.ofNat 8 scl, decide (sdaPu = 1), decide (sclPu = 1),
      BitVec.ofNat 4 port⟩).toNat = port <<< 20 ||| sclPu <<< 17 ||| sdaPu <<< 16 ||| scl <<< 8 ||| sda := by
    simp [Cfg.word, BitVec.toNat_append, toNat_ofBool_decide_eq_one hsdaPu, toNat_ofBool_decide_eq_one hsclPu,
      Nat.mod_eq_of_lt hport, Nat.mod_eq_of_lt hsda, Nat.mod_eq_of_lt hscl, Nat.shiftLeft_or_distrib, ← Nat.shiftLeft_add]
  rw [setCfgWord, ← hn, BitVec.ofNat_toNat, BitVec.setWidth_eq]

theorem ofWord_cfgWord (c : Cfg) : Cfg.ofWord c.word = c := by
  obtain ⟨hsda, hscl, hsdaPu, hsclPu, hport⟩ := cfgWord_fields c
  rw [Cfg.ofWord, hsda, hscl, hsdaPu, hsclPu, hport]

/-! ### Host operations -/

/-- The one access of a pseudo-instruction for a host operation: the CMD write of the encoded word, its ignored bits 0. -/
theorem stmtAccesses_of_stmtInstr {t : Stmt} {i : Instr} (h : stmtInstr t = some i) (hw : t.wf = true) :
    stmtAccesses t = [.write (.sseqBase 0x04) 4 (encode i)] := by
  cases t <;> cases h
  case writeUreg v =>
    have hv : v < 0x100 := by simpa [Stmt.wf] using hw
    simp [stmtAccesses, writeReg, regOffset, encode, cmdWord2_eq_ofNat (d := 0) (by decide) hv, Op.code]
  case setResolution r =>
    have hr : r < 0x100 := by simpa [Stmt.wf] using hw
    simp [stmtAccesses, writeReg, regOffset, encode, cmdWord2_eq_ofNat (d := 0) (by decide) hr, Op.code]
  case crcCheck d c =>
    obtain ⟨hd, hc⟩ : d < 0x10000 ∧ c < 0x100 := by simpa [Stmt.wf] using hw
    simp [stmtAccesses, writeReg, regOffset, encode, cmdWord2_eq_ofNat hd hc, Op.code]
  all_goals rfl

end Sys2Proof.Machine

open Sys2Proof Sys2Proof.Machine

/-- Settles O38: a statement whose operands fit makes its accesses, whose CMD word is the encoder's and whose CFG word is
that of the fields; one whose operands do not fit makes none. -/
theorem hostStatementsExpandToTheirCommandWords : Obligations.HostStatementsExpandToTheirCommandWords := by
  refine ⟨fun t i h hw => ?_, rfl, rfl, rfl, fun v hv => ?_, rfl, fun r hr => ?_, rfl, rfl, fun d c hd hc => ?_,
    fun port sda scl sdaPu sclPu hport hsda hscl hsdaPu hsclPu => ⟨?_, ?_⟩, rfl, fun v d c => ⟨fun hv => ⟨?_, ?_⟩,
    fun hdc => ?_, fun port sda scl sdaPu sclPu hcfg => ?_⟩⟩
  · rw [assemble_of_wf hw, stmtAccesses_of_stmtInstr h hw]
  · exact assemble_of_wf (by simp [Stmt.wf]; omega)
  · exact assemble_of_wf (by simp [Stmt.wf]; omega)
  · exact assemble_of_wf (by simp [Stmt.wf]; omega)
  · exact assemble_of_wf (by simp [Stmt.wf]; omega)
  · exact (congrArg Cfg.ofWord (setCfgWord_eq_cfgWord (by omega) (by omega) (by omega) (by omega) (by omega))).trans
      (ofWord_cfgWord _)
  · exact assemble_of_not_wf (by simp [Stmt.wf]; omega)
  · exact assemble_of_not_wf (by simp [Stmt.wf]; omega)
  · exact assemble_of_not_wf (by simp [Stmt.wf]; omega)
  · exact assemble_of_not_wf (by simp [Stmt.wf]; omega)
end

section
/-! SUPPORT. Whose answer an event is, and what an answer of another agent or to another request does
(40_sequencer_core.md R158, 70_reset_and_hazards.md R341). -/

namespace Sys2Proof.Machine

theorem isDelay_eq_true_iff {r : Request} : r.isDelay = true ↔ ∃ ms, r = .delay ms := by
  cases r <;> simp [Request.isDelay]

theorem isDelay_eq_false_iff {r : Request} : r.isDelay = false ↔ ∀ ms, r ≠ .delay ms := by
  cases r <;> simp [Request.isDelay]

theorem Event.answers_iff {e : Event} {p : Pending} :
    e.answers p = true ↔
      (∃ code rx, e = .transport p.tag code rx) ∧ p.req.isDelay = false ∨
        e = .elapsed p.tag ∧ p.req.isDelay = true := by
  cases e <;> simp [Event.answers]

/-- An answer to another request is discarded (R341). -/
theorem transportAnswer_of_tag_ne {s : State} {tag : Nat} (h : ∀ p, s.pend = some p → p.tag ≠ tag) (code : BitVec 3)
    (rx : List Byte) : transportAnswer tag code rx s = .next s := by
  cases hp : s.pend with
  | none => simp only [transportAnswer, hp]
  | some p => simp only [transportAnswer, hp, if_neg (h p hp)]

theorem timerAnswer_of_tag_ne {s : State} {tag : Nat} (h : ∀ p, s.pend = some p → p.tag ≠ tag) :
    timerAnswer tag s = .next s := by
  cases hp : s.pend with
  | none => simp only [timerAnswer, hp]
  | some p => simp only [timerAnswer, hp, if_neg (h p hp)]

section
variable {s : State} {p : Pending} {rest : List Event} (hp : s.pend = some p)
include hp

/-- The timer does not answer what the transport owns (R158). -/
theorem step_elapsed_refused (hd : p.req.isDelay = false) (h : s.inputs = .elapsed p.tag :: rest) :
    step s = .refused .responderNotOwner := by
  rw [step_cons h]
  simp only [handle, timerAnswer, withInputs_pend, hp, if_true, hd, Bool.false_eq_true, if_false]

/-- The transport does not answer a Delay (R158). -/
theorem step_transport_refused (hd : p.req.isDelay = true) {code : BitVec 3} {rx : List Byte}
    (h : s.inputs = .transport p.tag code rx :: rest) : step s = .refused .responderNotOwner := by
  rw [step_cons h]
  simp only [handle, transportAnswer, withInputs_pend, hp, if_true, hd]

end

/-- A code outside 0 .. 4 is no outcome (R130). -/
theorem outcomeOfCode_eq_none {code : BitVec 3} (h : 4 < code.toNat) : TxOutcome.ofCode code = none := by
  decide +revert

theorem normalise_of_ofCode_eq_none {code : BitVec 3} (h : TxOutcome.ofCode code = none) (r : Request) (rx : List Byte) :
    normalise r code rx = (.fail, []) := by simp only [normalise, h]

theorem normalise_txn_ok (port : Port) (link : Link) (tmo : Nat) (rx : List Byte) :
    normalise (.txn port link tmo) 0#3 rx = if rx.length = linkReads link then (.ok, rx) else (.fail, []) := rfl

theorem normalise_uncounted_ok {r : Request} (h : r.reads = none) (rx : List Byte) : normalise r 0#3 rx = (.ok, rx) := by
  simp only [normalise, h]
  rfl

theorem reads_eq_none {r : Request} (h : ∀ port link tmo, r ≠ .txn port link tmo) : r.reads = none := by
  cases r with
  | txn port link tmo => exact absurd rfl (h port link tmo)
  | _ => rfl

end Sys2Proof.Machine

open Sys2Proof Sys2Proof.Machine

/-- Settles O53: the pending request's number decides whether an answer is taken, its kind decides from whom. -/
theorem onlyTheOwnersAnswerIsTaken : Obligations.OnlyTheOwnersAnswerIsTaken := by
  refine ⟨fun s tag e rest h he htag => ?_, fun s p rest hp => ⟨fun hd h => ?_, fun ms code rx hd h => ?_⟩⟩
  · rw [step_cons h]
    rcases he with rfl | ⟨code, rx, rfl⟩
    · exact timerAnswer_of_tag_ne (s := withInputs rest s) htag
    · exact transportAnswer_of_tag_ne (s := withInputs rest s) htag code rx
  · exact step_elapsed_refused hp (isDelay_eq_false_iff.mpr hd) h
  · exact step_transport_refused hp (isDelay_eq_true_iff.mpr ⟨ms, hd⟩) h

/-- Settles O27: the code selects the outcome, the link's read count decides whether an OK is one, and the step hands the
normalised pair to the continuation. -/
theorem answersAreNormalisedFirst : Obligations.AnswersAreNormalisedFirst := by
  refine ⟨fun r code rx => ⟨fun hcode => ?_, fun port link tmo hr hcode => ?_, fun hr hcode => ?_,
    by rintro rfl; rfl, by rintro rfl; rfl, by rintro rfl; rfl, by rintro rfl; rfl⟩,
    fun s tag r code rx rest hp hd h => ?_, fun s tag ms rest hp h => ?_⟩
  · exact normalise_of_ofCode_eq_none (outcomeOfCode_eq_none hcode) r rx
  · subst hr hcode
    rw [normalise_txn_ok]
    exact ⟨fun hne => if_neg hne, fun heq => if_pos heq⟩
  · rw [hcode, normalise_uncounted_ok (reads_eq_none hr)]
  · exact step_transport hp (isDelay_eq_false_iff.mpr hd) h
  · exact step_elapsed hp rfl h
end

section
/-! SUPPORT. The accept step (40_sequencer_core.md R150 to R155): which of its three forms it takes, and what it leaves
unchanged in the registers and in the window the host sees. -/

namespace Sys2Proof.Machine

/-! ### Reserved words -/

theorem ofCode_isSome_iff (c : BitVec 4) : (Op.ofCode c).isSome = true ↔ 1 ≤ c.toNat ∧ c.toNat ≤ 9 := by
  decide +revert

/-- A word decodes exactly when RSV is 0 and OP selects an operation (R113, R116). -/
theorem exists_decode_ok_iff (w : Word) :
    (∃ i, decode w = .ok i) ↔ fieldRsv w = 0#4 ∧ (Op.ofCode (fieldOp w)).isSome = true := by
  constructor
  · rintro ⟨i, hd⟩
    obtain ⟨hr, o, ho, -⟩ := decode_ok hd
    exact ⟨hr, by rw [ho, ofCode_code]; rfl⟩
  · rintro ⟨hr, ho⟩
    obtain ⟨o, ho⟩ := Option.isSome_iff_exists.mp ho
    exact ⟨_, decode_of_code hr (code_of_ofCode _ o ho)⟩

/-! ### A CMD write -/

section
variable {s : State} {v : Word} {rest : List Event} (h : HostWrites s.inputs 0x04 4 v rest)
include h

theorem step_cmdWrite_ok {i : Instr} (hd : decode v = .ok i) : step s = exec i (withInputs rest s) := by
  rw [step_hostWrite h (by decide) (by decide)]
  exact hostWriteCmd_ok hd _

theorem step_cmdWrite_reserved (hb : s.busy = false) {r : Reserved} (hd : decode v = .error r) :
    step s = .next (complete .invalidArg (accept v (withInputs rest s))) := by
  rw [step_hostWrite h (by decide) (by decide)]
  exact (hostWriteCmd_reserved hd _).trans (command_idle v _ _ hb)

end

/-! ### The three forms of the accept step -/

section
variable {i : Instr} {s : State}

theorem exec_busy (hb : s.busy = true) : exec i s = .next s.setDrop := by rw [exec_eq, if_pos hb]

theorem exec_gated (hb : s.busy = false) (hi : s.initDone = false) (ho : isBusOp i.op = true) :
    exec i s = .next (complete .invalidState (accept (encode i) s)) := by
  rw [exec_eq, if_neg (by simp [hb]), if_pos (by simp [ho, hi])]

theorem exec_started (hb : s.busy = false) (hg : isBusOp i.op = true → s.initDone = true) :
    exec i s = .next (startOf i (accept (encode i) s)) := by
  rw [exec_eq, if_neg (by simp [hb]), if_neg (by simpa using hg)]

theorem exec_cases {t : State} (h : exec i s = .next t) :
    s.busy = true ∧ t = s.setDrop ∨
      s.busy = false ∧ (t = complete .invalidState (accept (encode i) s) ∨ t = startOf i (accept (encode i) s)) := by
  cases hb : s.busy with
  | true =>
    rw [exec_busy hb] at h
    cases h
    exact .inl ⟨rfl, rfl⟩
  | false =>
    refine .inr ⟨rfl, ?_⟩
    rw [exec_eq, if_neg (by simp [hb])] at h
    split at h <;> cases h
    · exact .inl rfl
    · exact .inr rfl

end

/-! ### Frame -/

theorem startOf_cfg (i : Instr) (s : State) : (startOf i s).cfg = s.cfg := by cases i <;> rfl

theorem startOf_hostReads (i : Instr) (s : State) : (startOf i s).hostReads = s.hostReads := by cases i <;> rfl

/-- Only CRC_CHECK writes the CRC flags at its start. -/
theorem startOf_crcFlags {i : Instr} (h : i.op ≠ .crcCheck) (s : State) :
    (startOf i s).crcChecked = s.crcChecked ∧ (startOf i s).crcOk = s.crcOk := by
  cases i with
  | crcCheck value crc => exact absurd rfl h
  | _ => exact ⟨rfl, rfl⟩

/-- What the accept step of `i` leaves unchanged. -/
structure AcceptFrame (i : Instr) (s t : State) : Prop where
  results : ResultsKept s t
  cfg : t.cfg = s.cfg
  inputs : t.inputs = s.inputs
  hostReads : t.hostReads = s.hostReads
  uregWr : i.op ≠ .writeUreg → t.uregWr = s.uregWr
  lifecycle : i.op ≠ .init → t.initDone = s.initDone ∧ t.activePort = s.activePort ∧ t.cfgSnap = s.cfgSnap

theorem startOf_acceptFrame (i : Instr) (s : State) : AcceptFrame i s (startOf i s) where
  results :=
    have hf := startOf_frame i s
    ⟨hf.raw, hf.rxbuf, hf.uregRd, hf.uregRes, hf.newv⟩
  cfg := startOf_cfg i s
  inputs := startOf_inputs i s
  hostReads := startOf_hostReads i s
  uregWr hop := by
    rcases startOf_uregWr i s with ⟨heq, -⟩ | ⟨value, ign, rfl⟩
    · exact heq
    · exact absurd rfl hop
  lifecycle hop :=
    have ⟨hport, hsnap, hinit⟩ := startOf_lifecycle hop s
    ⟨hinit, hport, hsnap⟩

theorem exec_frame {i : Instr} {s t : State} (h : exec i s = .next t) : AcceptFrame i s t := by
  rcases exec_cases h with ⟨-, rfl⟩ | ⟨-, rfl | rfl⟩
  · exact ⟨⟨rfl, rfl, rfl, rfl, rfl⟩, rfl, rfl, rfl, fun _ => rfl, fun _ => ⟨rfl, rfl, rfl⟩⟩
  · exact ⟨⟨rfl, rfl, rfl, rfl, rfl⟩, rfl, rfl, rfl, fun _ => rfl, fun _ => ⟨rfl, rfl, rfl⟩⟩
  · -- acceptance writes none of these fields, so the frame of the start part is that of the step
    obtain ⟨⟨hraw, hrx, hrd, hres, hnewv⟩, hcfg, hinputs, hreads, hwr, hlife⟩ :=
      startOf_acceptFrame i (accept (encode i) s)
    exact ⟨⟨hraw, hrx, hrd, hres, hnewv⟩, hcfg, hinputs, hreads, hwr, hlife⟩

/-! ### The window -/

/-- Lane `k` of UREG does not depend on UREG.WR, unless it is UREG.WR (R52). -/
theorem lane_uregWord_congr {s t : State} (hrd : t.uregRd = s.uregRd) (hres : t.uregRes = s.uregRes) {k : Nat}
    (hwr : k = 1 → t.uregWr = s.uregWr) : lane t.uregWord k = lane s.uregWord k := by
  refine extractLsb'_eq_of_bits fun j hj => ?_
  rw [lane, BitVec.getLsbD_extractLsb', uregWord_getLsbD, uregWord_getLsbD, hrd, hres]
  by_cases hk : k = 1
  · simp [hj, hwr hk]
  · have hne : 8 * k + j < 8 ∨ ¬ 8 * k + j < 16 := by omega
    rcases hne with hlt | hge
    · simp [hj, hlt]
    · simp [hj, hge, show ¬ 8 * k + j < 8 by omega]

theorem registerWord_congr {s t : State} (hcfg : t.cfg = s.cfg) (h : ResultsKept s t) {off : Nat} (h4 : off ≠ 0x04)
    (h8 : off ≠ 0x08) (hu : off ≠ 0x14) : registerWord t off = registerWord s off := by
  unfold registerWord
  split
  · rw [hcfg]
  · contradiction
  · contradiction
  · rw [h.raw]
  · rw [h.rxbuf]
  · contradiction
  all_goals rfl

/-- A step that keeps CFG and the result registers keeps every byte of the window outside CMD, STATUS and UREG.WR. -/
theorem windowByte_congr {s t : State} (hcfg : t.cfg = s.cfg) (h : ResultsKept s t) {off : Nat}
    (hoff : ¬ (0x04 ≤ off ∧ off < 0x0C)) (hwr : off = 0x15 → t.uregWr = s.uregWr) :
    windowByte t off = windowByte s off := by
  by_cases hu : off - off % 4 = 0x14
  · simp only [windowByte, hu, registerWord, Option.map_some, Option.some.injEq]
    exact lane_uregWord_congr h.uregRd h.uregRes fun hk => hwr (by omega)
  · have hreg : registerWord t (off - off % 4) = registerWord s (off - off % 4) :=
      registerWord_congr hcfg h (by omega) (by omega) hu
    rw [windowByte, hreg, windowByte]

end Sys2Proof.Machine

open Sys2Proof Sys2Proof.Machine

/-- Settles O11: the write reaches CMD, whose word is decoded. -/
theorem stepRunsTheDecodedOperation : Obligations.StepRunsTheDecodedOperation :=
  fun _ _ _ _ h hd => ⟨step_cmdWrite_ok h hd, encode_of_decode_ok hd⟩

/-- Settles O13: a word that does not decode is accepted and completed in one step. -/
theorem reservedWordCompletesInvalidArg : Obligations.ReservedWordCompletesInvalidArg := by
  refine ⟨fun w => ?_, fun s v rest r h hb hd => step_cmdWrite_reserved h hb hd⟩
  rw [exists_decode_ok_iff, ofCode_isSome_iff, and_comm, and_assoc]
  rfl

/-- Settles O14: the gate stands in the way of the bus operations and of nothing else. -/
theorem gateCompletesBusOperationsInvalidState : Obligations.GateCompletesBusOperationsInvalidState := by
  refine fun i s hb hi => ⟨fun hop => ?_, fun hop => ?_, fun hop => ?_⟩
  · have ho : isBusOp i.op = true := by
      generalize i.op = o at hop
      cases o <;> simp [isBusOp] at hop ⊢
    exact exec_gated hb hi ho
  all_goals
    refine ⟨_, exec_started hb (by rw [hop]; nofun), ?_⟩
    cases i <;> cases hop
    exact ⟨rfl, rfl⟩

/-- Settles O26: the frame of the accept step, in the registers and in the window. -/
theorem acceptStepLeavesTheRestUnchanged : Obligations.AcceptStepLeavesTheRestUnchanged := by
  intro i s t h
  have hf := exec_frame h
  refine ⟨hf.cfg, hf.results.raw, hf.results.rxbuf, hf.results.uregRd, hf.results.uregRes, hf.results.newv, hf.inputs,
    hf.hostReads, hf.uregWr, hf.lifecycle, fun hb => ?_, fun hb => ?_, fun hb hop => ?_, fun off hoff hwr => ?_⟩
  · rw [exec_busy hb] at h
    cases h
    rfl
  · rcases exec_cases h with ⟨hb', -⟩ | ⟨-, rfl | rfl⟩
    · exact absurd hb' (by simp [hb])
    · rfl
    · exact (startOf_frame i (accept (encode i) s)).drop
  · rcases exec_cases h with ⟨hb', -⟩ | ⟨-, rfl | rfl⟩
    · exact absurd hb' (by simp [hb])
    · exact ⟨rfl, rfl⟩
    · exact startOf_crcFlags hop (accept (encode i) s)
  · exact windowByte_congr hf.cfg hf.results hoff fun h15 => hf.uregWr fun hop => hwr hop h15
end

section
/-! What a step issues, operation by operation: a step keeps the invariant, so the request that is pending after it is the
one of the control position it leads to. -/

namespace Sys2Proof.Machine

theorem link_of_txnRequest {s : State} {f : Params → Link} {port : Port} {l : Link} {tmo : Nat}
    (h : Request.txn port l tmo = txnRequest s f) : l = f Config.params := by
  cases h
  rfl

end Sys2Proof.Machine

open Sys2Proof Sys2Proof.Machine

/-- Settles O7: the words of the links, and for each control position that waits for a transaction its link. -/
theorem issuedLinksAreTheSevenOfTheSpec : Obligations.IssuedLinksAreTheSevenOfTheSpec := by
  refine ⟨fun p v => ?_, fun s t hi hs _ tag port link tmo hp => ?_⟩
  · simp only [reads_probe, reads_reset, reads_rcmd, reads_rd1, reads_wreg, reads_trigT, reads_trigRh, reads_rd3, and_true,
      ← primW_word]
    exact ⟨rfl, rfl, rfl, rfl, rfl, rfl, rfl, rfl⟩
  · cases position_of_pending (everyStepKeepsTheInvariant s t hi hs) hp <;> rename_i o ph hr
    case initConfigure | initInstall | wait => cases hr
    case trigger =>
      have hl := link_of_txnRequest hr
      rcases o with o | o <;> rw [o] at hl ⊢ <;> exact .inl hl
    case measureRead =>
      rcases o with o | o <;> rw [o] <;> exact .inr (link_of_txnRequest hr)
    all_goals rw [o]
    case initProbe | softReset => exact link_of_txnRequest hr
    case writeUreg => exact ⟨_, link_of_txnRequest hr⟩
    case readCommand | getCommand | setCommand => exact .inl (link_of_txnRequest hr)
    case readByte | getByte => exact .inr (link_of_txnRequest hr)
    case setByte => exact .inr (.inl (link_of_txnRequest hr))
    case setWrite => exact .inr (.inr ⟨_, link_of_txnRequest hr⟩)

/-- Settles O10: each of the four kinds of request is made of ACTIVE_PORT, CFG_SNAP and the parameters. -/
theorem transactionsUseTheActivePortAndTimeout : Obligations.TransactionsUseTheActivePortAndTimeout := by
  intro s t hi hs _ p hp
  have ht := everyStepKeepsTheInvariant s t hi hs
  cases position_of_pending ht hp <;> rename_i hr <;> rw [hr]
  case initConfigure => exact ⟨rfl, ht.portOfSnapshot, rfl, rfl, rfl, rfl, rfl, rfl, rfl⟩
  case wait => rfl
  all_goals exact ⟨rfl, rfl⟩
end

section
/-! SUPPORT. A failed answer, and the answers an operation still needs (40_sequencer_core.md R159, R167). -/

namespace Sys2Proof.Machine

/-! ### Failed answers -/

/-- Every way an answer whose outcome `x` is not OK leaves `u`: the operation's failure values, then completion with the
error of its phase or the outcome mapped (R167, R168). -/
inductive Failed (x : TxOutcome) (u t : State) : Prop where
  | init (e : ErrCode) (o : u.curOp = some .init)
      (he : u.phase = .configure ∧ e = .config ∨ u.phase = .install ∧ e = .install ∨ u.phase = .txn1 ∧ e = .notFound)
      (ht : t = complete e u)
  | write (o : (u.curOp = some .softReset ∨ u.curOp = some .writeUreg) ∧ u.phase = .txn1 ∨
        u.curOp = some .setResolution ∧ u.phase = .txn3)
      (ht : t = complete (mapOutcome x) u)
  | read (o : u.curOp = some .readUreg ∨ u.curOp = some .setResolution) (ph : u.phase = .txn1 ∨ u.phase = .txn2)
      (ht : t = complete (mapOutcome x) (failRead u))
  | resolution (o : u.curOp = some .getResolution) (ph : u.phase = .txn1 ∨ u.phase = .txn2)
      (ht : t = complete (mapOutcome x) (failResolution u))
  | measure (o : u.curOp = some .measureT ∨ u.curOp = some .measureRh) (ph : u.phase = .txn1 ∨ u.phase = .txn2)
      (ht : t = complete (mapOutcome x) (failMeasure u))

theorem failed_of_position {u : State} {r : Request} (h : Position u r) (hd : r.isDelay = false) {x : TxOutcome}
    (hx : x ≠ .ok) (rx : List Byte) : ∃ t, continueOp (.outcome x rx) u = .next t ∧ Failed x u t := by
  cases h <;> rename_i o ph hr
  case initConfigure => exact ⟨_, continue_init_configure o ph, .init _ o (.inl ⟨ph, rfl⟩) (onOutcome_failed hx ..)⟩
  case initInstall => exact ⟨_, continue_init_install o ph, .init _ o (.inr (.inl ⟨ph, rfl⟩)) (onOutcome_failed hx ..)⟩
  case initProbe => exact ⟨_, continue_init_txn1 o ph, .init _ o (.inr (.inr ⟨ph, rfl⟩)) (onOutcome_failed hx ..)⟩
  case softReset => exact ⟨_, continue_softReset_txn1 o ph, .write (.inl ⟨.inl o, ph⟩) rfl⟩
  case writeUreg => exact ⟨_, continue_writeUreg_txn1 o ph, .write (.inl ⟨.inr o, ph⟩) rfl⟩
  case setWrite => exact ⟨_, continue_setResolution_txn3 o ph, .write (.inr ⟨o, ph⟩) rfl⟩
  case readCommand => exact ⟨_, continue_readUreg_txn1 o ph, .read (.inl o) (.inl ph) (onOutcome_failed hx ..)⟩
  case setCommand => exact ⟨_, continue_setResolution_txn1 o ph, .read (.inr o) (.inl ph) (onOutcome_failed hx ..)⟩
  case getCommand => exact ⟨_, continue_getResolution_txn1 o ph, .resolution o (.inl ph) (onOutcome_failed hx ..)⟩
  case readByte =>
    exact ⟨_, (continue_readUreg_txn2 o ph).trans (readAnswered_failed hx ..), .read (.inl o) (.inr ph) rfl⟩
  case setByte =>
    exact ⟨_, (continue_setResolution_txn2 o ph).trans (readAnswered_failed hx ..), .read (.inr o) (.inr ph) rfl⟩
  case getByte =>
    exact ⟨_, (continue_getResolution_txn2 o ph).trans (readAnswered_failed hx ..), .resolution o (.inr ph) rfl⟩
  case trigger =>
    exact ⟨_, (continue_measure o).trans (continueMeasure_txn1 ph), .measure o (.inl ph) (onOutcome_failed hx ..)⟩
  case measureRead =>
    exact ⟨_, (continue_measure o).trans ((continueMeasure_txn2 ph).trans (measureAnswered_failed hx ..)),
      .measure o (.inr ph) rfl⟩
  case wait => rw [hr] at hd; cases hd

section
variable {x : TxOutcome} {u t : State} (h : Failed x u t)
include h

/-- A failed answer completes, and keeps what is no failure value. -/
theorem Failed.frame :
    t.phase = .idle ∧ t.done = true ∧ t.pend = none ∧ t.nextTag = u.nextTag ∧ t.uregWr = u.uregWr ∧
      t.initDone = u.initDone ∧ t.crcChecked = u.crcChecked ∧ t.crcOk = u.crcOk := by
  cases h <;> rename_i ht <;> subst ht <;> exact ⟨rfl, rfl, rfl, rfl, rfl, rfl, rfl, rfl⟩

theorem Failed.err_init (o : u.curOp = some .init) :
    u.phase = .configure ∧ t.err = .config ∨ u.phase = .install ∧ t.err = .install ∨
      u.phase = .txn1 ∧ t.err = .notFound := by
  cases h <;> rename_i ht
  case init e o' he => subst ht; exact he
  all_goals simp_all

theorem Failed.err_mapped (o : u.curOp ≠ some .init) : t.err = mapOutcome x := by
  cases h <;> rename_i ht <;> subst ht
  case init e o' he => exact absurd o' o
  all_goals rfl

/-- The failure values of the read sequence, in the phases that read (R210). -/
theorem Failed.readValues :
    if (u.curOp = some .readUreg ∨ u.curOp = some .getResolution ∨ u.curOp = some .setResolution) ∧ u.phase ≠ .txn3
      then t.uregRd = 0#8 ∧ t.rxbuf = Rxbuf.zero
      else t.uregRd = u.uregRd ∧ (u.curOp ≠ some .measureT → u.curOp ≠ some .measureRh → t.rxbuf = u.rxbuf) := by
  cases h <;> rename_i ht <;> subst ht
  case init e o he => rw [if_neg (by simp [o])]; exact ⟨rfl, fun _ _ => rfl⟩
  case write o =>
    rw [if_neg (by rcases o with ⟨o | o, -⟩ | ⟨-, ph⟩ <;> simp [*])]
    exact ⟨rfl, fun _ _ => rfl⟩
  case read o ph =>
    rw [if_pos (by rcases o with o | o <;> rcases ph with ph | ph <;> simp [o, ph])]
    exact ⟨rfl, rfl⟩
  case resolution o ph =>
    rw [if_pos (by rcases ph with ph | ph <;> simp [o, ph])]
    exact ⟨rfl, rfl⟩
  case measure o ph =>
    rw [if_neg (by rcases o with o | o <;> simp [o])]
    exact ⟨rfl, fun h1 h2 => by simp [h1, h2] at o⟩

theorem Failed.resValue : if u.curOp = some .getResolution then t.uregRes = 0#8 else t.uregRes = u.uregRes := by
  cases h <;> rename_i ht <;> subst ht
  case resolution o ph => rw [if_pos o]; rfl
  all_goals rw [if_neg (by rintro o; simp_all)]; rfl

/-- The failure values of a measurement (R248). -/
theorem Failed.measureValues :
    if u.curOp = some .measureT ∨ u.curOp = some .measureRh then t.raw = Raw.zero ∧ t.rxbuf = Rxbuf.zero
      else t.raw = u.raw := by
  cases h <;> rename_i ht <;> subst ht
  case measure o ph => rw [if_pos o]; exact ⟨rfl, rfl⟩
  all_goals rw [if_neg (by rintro (o | o) <;> simp_all)]; rfl

end

/-- A transport answer to the pending request that is not a good one (R166, R167). -/
theorem step_failed {s : State} {p : Pending} {code : BitVec 3} {rx : List Byte} {rest : List Event} (hi : s.Inv)
    (hp : s.pend = some p) (hd : p.req.isDelay = false) (h : s.inputs = .transport p.tag code rx :: rest)
    (hbad : ¬ (code = 0#3 ∧ ∀ n, p.req.reads = some n → rx.length = n)) :
    ∃ x t, step s = .next t ∧ Failed x (clearPend (withInputs rest s)) t ∧ mapOutcome x = answerErr code := by
  have hpos : Position (clearPend (withInputs rest s)) p.req :=
    position_of_expected (hi.pendIsExpected.symm.trans (by rw [hp]; rfl))
  rcases normalise_cases p.req code rx with ⟨-, hcode, hlen⟩ | ⟨-, hx, he, -⟩
  · exact absurd ⟨hcode, hlen⟩ hbad
  · obtain ⟨t, hc, hf⟩ := failed_of_position hpos hd hx (normalise p.req code rx).2
    exact ⟨_, t, (step_transport hp hd h).trans hc, hf, he⟩

/-! ### Answers left -/

@[simp] theorem issueTxn_phase (l : Params → Link) (ph : Phase) (s : State) : (issueTxn l ph s).phase = ph := rfl

@[simp] theorem issueTxn_curOp (l : Params → Link) (ph : Phase) (s : State) : (issueTxn l ph s).curOp = s.curOp := rfl

@[simp] theorem resolutionMerged_phase (b : Byte) (s : State) : (resolutionMerged b s).phase = .txn3 := rfl

theorem Answered.done_of_idle {u t : State} (h : Answered u t) (hph : t.phase = .idle) : t.done = true := by
  cases h <;> rename_i ht <;> subst ht
  case configured | installed | readCommanded | resolutionMerged | triggered => cases hph
  all_goals rfl

theorem answersLeft_of_idle {s : State} (h : s.phase = .idle) : answersLeft s = 0 := by
  rw [answersLeft, h]
  cases s.curOp with
  | none => rfl
  | some o => cases o <;> rfl

theorem Position.answersLeft {s : State} {r : Request} (h : Position s r) : 1 ≤ answersLeft s ∧ answersLeft s ≤ 3 := by
  cases h <;> rename_i o ph hr
  case trigger | wait | measureRead => rcases o with o | o <;> simp [Machine.answersLeft, o, ph]
  all_goals simp [Machine.answersLeft, o, ph]

/-- An answer that does not complete the operation is one of those it needs. -/
theorem Answered.answersLeft {u t : State} (h : Answered u t) :
    t.phase = .idle ∨ answersLeft t + 1 = answersLeft u := by
  have ho : t.curOp = u.curOp := curOp_of_cmdl h.frame.cmdl
  cases h <;> rename_i ht
  case configured o ph => subst ht; exact .inr (by simp [Machine.answersLeft, ho, o, ph])
  case installed o ph => subst ht; exact .inr (by simp [Machine.answersLeft, ho, o, ph])
  case readCommanded o ph =>
    subst ht
    rcases o with o | o | o <;> exact .inr (by simp [Machine.answersLeft, ho, o, ph])
  case resolutionMerged o ph => subst ht; exact .inr (by simp [Machine.answersLeft, ho, o, ph])
  case triggered o ph =>
    subst ht
    rcases o with o | o <;> exact .inr (by simp [Machine.answersLeft, ho, o, ph])
  all_goals subst ht; exact .inl rfl

/-- The owner's answer to the pending request: the operation completes, or needs one answer less. -/
theorem step_answer {s : State} {p : Pending} {e : Event} {rest : List Event} (hi : s.Inv) (hp : s.pend = some p)
    (h : s.inputs = e :: rest) (he : e.answers p = true) :
    ∃ t, step s = .next t ∧ (t.phase = .idle → t.done = true) ∧
      (t.phase = .idle ∨ answersLeft t + 1 = answersLeft s) := by
  rcases Event.answers_iff.mp he with ⟨⟨code, rx, rfl⟩, hd⟩ | ⟨rfl, hd⟩
  · obtain ⟨t, hc, ha⟩ := answered_of_transport hi hp hd code rx rest
    exact ⟨t, (step_transport hp hd h).trans hc, ha.done_of_idle, ha.answersLeft⟩
  · obtain ⟨o, ph, -, hc⟩ := waited_of_elapsed hi hp hd rest
    refine ⟨_, (step_elapsed hp hd h).trans hc, nofun, .inr ?_⟩
    rcases o with o | o <;> simp [answersLeft, o, ph]

end Sys2Proof.Machine

open Sys2Proof Sys2Proof.Machine

/-- Settles O28: the answer is normalised to an outcome that is not OK, which ends the operation at every control
position. -/
theorem failedAnswerEndsTheOperationInThatStep : Obligations.FailedAnswerEndsTheOperationInThatStep := by
  intro s p code rx rest hi hp hd h hbad
  obtain ⟨x, t, hs, hf, herr⟩ := step_failed hi hp (isDelay_eq_false_iff.mpr hd) h fun ⟨hcode, hlen⟩ =>
    hbad ⟨hcode, fun port link tmo hr => hlen _ (by rw [hr]; rfl)⟩
  obtain ⟨hidle, hdone, hpend, htag, hwr, hinit, hchecked, hok⟩ := hf.frame
  refine ⟨t, hs, hidle, hdone, hpend, htag, fun o ph => ?_, fun o ph => ?_, fun o ph => ?_,
    fun o => (hf.err_mapped o).trans herr, hf.readValues, hf.resValue, hf.measureValues, hwr, hinit, hchecked, hok⟩
  · simpa [ph] using hf.err_init o
  · simpa [ph] using hf.err_init o
  · simpa [ph] using hf.err_init o

/-- Settles O42: of the kinds of step only an answer and reset lead from busy to IDLE, and neither is a host access. -/
theorem noHostActionCancelsAnOperation : Obligations.NoHostActionCancelsAnOperation := by
  intro s t hi hb hs
  have hph := (busy_eq_true_iff s).mp hb
  cases step_kind hs with
  | quiet hr ha h =>
    refine ⟨fun _ => ⟨h.phase, h.pend, h.cmdl, h.nextTag⟩, fun hbt => ?_⟩
    exact absurd (h.phase.symm.trans ((busy_eq_false_iff t).mp hbt)) hph
  | refused v rest e h hb' hd ht => exact absurd (hb.symm.trans hb') nofun
  | started v i rest h hb' hd hg ht => exact absurd (hb.symm.trans hb') nofun
  | answered p code rx rest hp h hc ha =>
    refine ⟨fun ⟨a, rest', h'⟩ => by simp [h] at h', fun hbt => .inr ⟨?_, p, _, rest, hp, ?_, h⟩⟩
    · exact ha.done_of_idle ((busy_eq_false_iff t).mp hbt)
    · refine Event.answers_iff.mpr (.inl ⟨⟨code, rx, rfl⟩, ?_⟩)
      rw [Bool.eq_false_iff]
      intro hd
      simp [step_transport_refused hp hd h] at hs
  | waited p rest hp h o ph ht =>
    subst ht
    exact ⟨fun ⟨a, rest', h'⟩ => by simp [h] at h', fun hbt => by simp at hbt⟩
  | reset rest h ht => exact ⟨fun ⟨a, rest', h'⟩ => by simp [h] at h', fun _ => .inl ⟨rest, h⟩⟩

/-- Settles O54: an answer completes the operation or leaves one answer less, and a busy state that meets the invariant
needs at least one. -/
theorem everyAnswerBringsCompletionNearer : Obligations.EveryAnswerBringsCompletionNearer := by
  intro s p e rest hi hp h he
  have ⟨hpos, hle⟩ := (position_of_pending hi hp).answersLeft
  obtain ⟨t, hs, hdone, hleft⟩ := step_answer hi hp h he
  refine ⟨hpos, hle, t, hs, ?_⟩
  cases hbt : t.busy with
  | false =>
    have hph := (busy_eq_false_iff t).mp hbt
    have h0 := answersLeft_of_idle hph
    exact ⟨by omega, fun _ => ⟨rfl, hdone hph⟩, fun hne => absurd h0 hne⟩
  | true =>
    have hit := everyStepKeepsTheInvariant s t hi hs
    obtain ⟨q, hq⟩ := pending_of_busy hit hbt
    have hpos' := (position_of_pending hit hq).answersLeft.1
    have hless := hleft.resolve_left ((busy_eq_true_iff t).mp hbt)
    exact ⟨by omega, fun h0 => by omega, fun _ => ⟨rfl, by simp [hq]⟩⟩
end

section
/-! INIT and SOFT_RESET (41_lifecycle.md). For every operation: which words are its own, the state its start part gets,
and the two ways the answer to its pending request goes on. -/

namespace Sys2Proof

/-! ### An operation's words -/

/-- The low byte of a CMD word is `RSV : OP` (R111). -/
theorem lowByte_eq_iff (w : Word) (rsv op : BitVec 4) :
    w.extractLsb' 0 8 = (rsv ++ op : BitVec (4 + 4)) ↔ fieldRsv w = rsv ∧ fieldOp w = op := by
  have hb : (fieldRsv w ++ fieldOp w : BitVec (4 + 4)) = w.extractLsb' 0 8 :=
    BitVec.extractLsb'_append_extractLsb'_eq_extractLsb' rfl
  rw [← hb]
  constructor
  · intro h
    have hr := congrArg (BitVec.extractLsb' 4 4) h
    have ho := congrArg (BitVec.extractLsb' 0 4) h
    simp only [BitVec.extractLsb'_append_eq_of_le, BitVec.extractLsb'_append_eq_of_add_le, Nat.le_refl, Nat.zero_add,
      Nat.sub_self, BitVec.extractLsb'_eq_self] at hr ho
    exact ⟨hr, ho⟩
  · rintro ⟨rfl, rfl⟩
    rfl

/-- A word decodes to `i` exactly when its low byte is `i`'s and its argument fields are `i`'s operands (R114, R116). -/
theorem decode_eq_ok_iff {w : Word} {i : Instr} :
    decode w = .ok i ↔ w.extractLsb' 0 8 = (0x0#4 ++ i.op.code : BitVec (4 + 4)) ∧ Instr.ofFields i.op w = i := by
  rw [lowByte_eq_iff]
  constructor
  · intro hd
    obtain ⟨hr, o, ho, rfl⟩ := decode_ok hd
    rw [op_ofFields]
    exact ⟨⟨hr, ho⟩, rfl⟩
  · rintro ⟨⟨hr, ho⟩, hi⟩
    rw [decode_of_code hr ho, hi]

/-- The words of an operation without operands: every word with its low byte, whatever the ignored bits. -/
theorem exists_decode_iff {f : BitVec 24 → Instr} {o : Op} (hop : ∀ ign, (f ign).op = o)
    (hf : ∀ w, Instr.ofFields o w = f (fieldArg w)) (w : Word) :
    (∃ ign, decode w = .ok (f ign)) ↔ w.extractLsb' 0 8 = (0x0#4 ++ o.code : BitVec (4 + 4)) := by
  simp only [decode_eq_ok_iff, hop, hf]
  exact ⟨fun ⟨_, hw, _⟩ => hw, fun hw => ⟨fieldArg w, hw, rfl⟩⟩

end Sys2Proof

namespace Sys2Proof.Machine

/-! ### Acceptance of an operation's word -/

theorem accept_encode (i : Instr) (s : State) : accept (encode i) s =
    { s with cmdl := encode i, lastOp := i.op.code, done := false, err := .ok, crcChecked := false, crcOk := false } := by
  rw [accept, fieldOp_encode]

/-! ### Good answers -/

/-- The answer is normalised to OK: code 0, and as many bytes as the request reads (R166). -/
def GoodAnswer (r : Request) (code : BitVec 3) (rx : List Byte) : Prop :=
  code = 0#3 ∧ ∀ n, r.reads = some n → rx.length = n

theorem goodAnswer_of_uncounted {r : Request} (h : r.reads = none) (code : BitVec 3) (rx : List Byte) :
    GoodAnswer r code rx ↔ code = 0#3 := by simp [GoodAnswer, h]

theorem goodAnswer_of_writeOnly {r : Request} (h : r.reads = some 0) (code : BitVec 3) (rx : List Byte) :
    GoodAnswer r code rx ↔ code = 0#3 ∧ rx = [] := by simp [GoodAnswer, h]

section
variable {s : State} {o : Op} {ph : Phase} {code : BitVec 3} {rx : List Byte} {rest : List Event} {r : Request}
  (h : Answering s o ph code rx rest) (hr : expectedAt (some o) ph s = some r) (hd : r.isDelay = false)
include h hr hd

/-- The operation continues with the answer to the request of its control position, normalised (R158). -/
theorem Answering.step_eq :
    step s = continueOp (.outcome (normalise r code rx).1 (normalise r code rx).2) (clearPend (withInputs rest s)) := by
  obtain ⟨p, hp, hin⟩ := h.event
  obtain rfl : p.req = r := request_of_pending h.inv hp h.op h.phase hr
  exact step_transport hp hd hin

theorem Answering.step_good (hg : GoodAnswer r code rx) :
    step s = continueOp (.outcome .ok rx) (clearPend (withInputs rest s)) := by
  rcases normalise_cases r code rx with ⟨hn, -⟩ | ⟨-, -, -, hbad⟩
  · rw [h.step_eq hr hd, hn]
  · exact absurd hg hbad

/-- Every other answer has an outcome that maps to the error of its code (R166, R168). -/
theorem Answering.step_bad (hb : ¬ GoodAnswer r code rx) : ∃ x, x ≠ .ok ∧ mapOutcome x = answerErr code ∧
    step s = continueOp (.outcome x []) (clearPend (withInputs rest s)) := by
  rcases normalise_cases r code rx with ⟨-, hcode, hlen⟩ | ⟨hn, hx, he, -⟩
  · exact absurd ⟨hcode, hlen⟩ hb
  · refine ⟨_, hx, he, ?_⟩
    rw [h.step_eq hr hd, hn]

/-- A continuation of the common form goes on after a good answer, and after every other one writes the failure values
and completes (R167). -/
theorem Answering.step_onOutcome {e : TxOutcome → ErrCode} {e' : ErrCode} {f g : State → State}
    (hc : ∀ x bytes, continueOp (.outcome x bytes) (clearPend (withInputs rest s)) =
      .next (onOutcome x f (e x) g (clearPend (withInputs rest s))))
    (he : ∀ x, mapOutcome x = answerErr code → e x = e') :
    (GoodAnswer r code rx → step s = .next (g (clearPend (withInputs rest s)))) ∧
      (¬ GoodAnswer r code rx → step s = .next (complete e' (f (clearPend (withInputs rest s))))) := by
  refine ⟨fun hg => ?_, fun hb => ?_⟩
  · rw [h.step_good hr hd hg, hc, onOutcome_ok]
  · obtain ⟨x, hx, hmap, hs⟩ := h.step_bad hr hd hb
    rw [hs, hc, onOutcome_failed hx, he x hmap]

/-- An operation whose last transaction only writes completes with the mapped outcome, good or bad (R168). -/
theorem Answering.step_lastWrite (hw : r.reads = some 0)
    (hc : ∀ x bytes, continueOp (.outcome x bytes) (clearPend (withInputs rest s)) =
      .next (complete (mapOutcome x) (clearPend (withInputs rest s)))) :
    step s = .next (complete (if code = 0#3 ∧ rx = [] then .ok else answerErr code) (clearPend (withInputs rest s))) := by
  have hgood := goodAnswer_of_writeOnly hw code rx
  split <;> rename_i hi <;> rw [← hgood] at hi
  · rw [h.step_good hr hd hi, hc]
    rfl
  · obtain ⟨x, -, hmap, hs⟩ := h.step_bad hr hd hi
    rw [hs, hc, hmap]

end

end Sys2Proof.Machine

open Sys2Proof Sys2Proof.Machine

/-- Settles O17: at each of INIT's control positions a good answer goes on and every other one completes with the error
of the phase. -/
theorem initContinuesToConfigInstallNotFoundOrDone : Obligations.InitContinuesToConfigInstallNotFoundOrDone := by
  refine fun s code rx rest => ⟨fun h => ?_, fun h => ?_, fun h => ?_⟩
  · have ⟨hgood, hbad⟩ := h.step_onOutcome (r := configureRequest s.cfgSnap) rfl rfl
      (fun _ _ => continue_init_configure (s := clearPend (withInputs rest s)) h.op h.phase) (fun _ _ => rfl)
    rw [goodAnswer_of_uncounted rfl] at hgood hbad
    exact ⟨hgood, hbad⟩
  · have ⟨hgood, hbad⟩ := h.step_onOutcome (r := installRequest s.activePort) rfl rfl
      (fun _ _ => continue_init_install (s := clearPend (withInputs rest s)) h.op h.phase) (fun _ _ => rfl)
    rw [goodAnswer_of_uncounted rfl] at hgood hbad
    exact ⟨hgood, hbad⟩
  · have ⟨hgood, hbad⟩ := h.step_onOutcome (r := txnRequest s linkProbe) rfl rfl
      (fun _ _ => continue_init_txn1 (s := clearPend (withInputs rest s)) h.op h.phase) (fun _ _ => rfl)
    rw [goodAnswer_of_writeOnly rfl] at hgood hbad
    exact ⟨hgood, hbad⟩

/-- Settles O18: the start part issues the RESET link, and its only answer completes the operation either way. -/
theorem softResetSendsOneWriteAndReportsItsOutcome : Obligations.SoftResetSendsOneWriteAndReportsItsOutcome := by
  refine ⟨fun ign s hb hi => ?_, fun ign s hb hi => ?_, fun s code rx rest h => ?_, ?_⟩
  · rw [exec_started hb fun _ => hi, accept_encode]
    rfl
  · exact ⟨_, exec_gated hb hi rfl, rfl, rfl, rfl⟩
  · exact h.step_lastWrite (r := txnRequest s linkReset) rfl rfl rfl
      fun _ _ => continue_softReset_txn1 (s := clearPend (withInputs rest s)) h.op h.phase
  · exact exists_decode_iff (o := .softReset) (fun _ => rfl) fun _ => rfl

/-- Settles O16: INIT is not gated, and its start part takes the snapshot and issues Configure. -/
theorem initStartSnapshotsAndConfigures : Obligations.InitStartSnapshotsAndConfigures := by
  refine ⟨fun ign s hb => ?_, ?_⟩
  · rw [exec_started (i := .init ign) hb nofun, accept_encode]
    rfl
  · exact exists_decode_iff (o := .init) (fun _ => rfl) fun _ => rfl
end

section
/-! The register access operations (42_register_access.md): the read sequence that three of them begin with, the masking
law, and the run of SET_RESOLUTION followed by GET_RESOLUTION. -/

namespace Sys2Proof

/-- The words of an operation with a byte operand: every word with its low byte, whatever the ignored bits. -/
theorem exists_decode_byte_iff {f : Byte → BitVec 16 → Instr} {o : Op} (hop : ∀ lo ign, (f lo ign).op = o)
    (hf : ∀ w, Instr.ofFields o w = f (fieldArgLo w) (fieldArgHi w))
    (hinj : ∀ {lo lo' ign ign'}, f lo ign = f lo' ign' → lo = lo') (w : Word) (lo : Byte) :
    (∃ ign, decode w = .ok (f lo ign)) ↔
      w.extractLsb' 0 8 = (0x0#4 ++ o.code : BitVec (4 + 4)) ∧ lo = w.extractLsb' 8 8 := by
  simp only [decode_eq_ok_iff, hop, hf]
  constructor
  · rintro ⟨ign, hw, h⟩
    exact ⟨hw, (hinj h).symm⟩
  · rintro ⟨hw, rfl⟩
    exact ⟨fieldArgHi w, hw, rfl⟩

end Sys2Proof

namespace Sys2Proof.Machine

/-! ### The masking law (R224) -/

theorem mergeResolution_getLsbD (cur resolution : Byte) {k : Nat} (hk : k < 8) :
    (mergeResolution cur resolution).getLsbD k = if k = 7 ∨ k = 0 then resolution.getLsbD k else cur.getLsbD k := by
  simp only [mergeResolution, keepMask, resMask, BitVec.getLsbD_or, BitVec.getLsbD_and]
  interval_cases k <;> simp

theorem mergeResolution_and_resMask (cur resolution : Byte) :
    mergeResolution cur resolution &&& 0x81#8 = resolution &&& 0x81#8 := by
  apply BitVec.eq_of_getLsbD_eq
  intro k hk
  rw [BitVec.getLsbD_and, mergeResolution_getLsbD cur resolution hk, BitVec.getLsbD_and]
  interval_cases k <;> simp

theorem mergeResolution_and_keepMask (cur resolution : Byte) :
    mergeResolution cur resolution &&& 0x7E#8 = cur &&& 0x7E#8 := by
  apply BitVec.eq_of_getLsbD_eq
  intro k hk
  rw [BitVec.getLsbD_and, mergeResolution_getLsbD cur resolution hk, BitVec.getLsbD_and]
  interval_cases k <;> simp

theorem fieldArgLo_encode_setResolution (r : Byte) (ign : BitVec 16) : fieldArgLo (encode (.setResolution r ign)) = r :=
  fieldArgLo_cmdWord2 ign r .setResolution

/-- After a good read of `cur`, SET_RESOLUTION writes back `cur` merged with its operand. -/
theorem resolutionMerged_eq {s : State} {r : Byte} {ign : BitVec 16} (h : s.cmdl = encode (.setResolution r ign))
    (cur : Byte) : resolutionMerged cur s = writeBack (mergeResolution cur r) (takeRead cur s) := by
  rw [resolutionMerged, h, fieldArgLo_encode_setResolution]

/-! ### The read sequence (R210) -/

/-- The operations that begin with the read sequence, each with its failure values and its final step: R219 and R223 reuse
TXN_1 and TXN_2 of R210 and differ in these only. -/
inductive ReadsFirst : Op → (State → State) → (Byte → State → State) → Prop
  | readUreg : ReadsFirst .readUreg failRead readUregTaken
  | getResolution : ReadsFirst .getResolution failResolution resolutionTaken
  | setResolution : ReadsFirst .setResolution failRead resolutionMerged

theorem failResolution_eq (s : State) :
    failResolution s = { s with uregRd := 0x00#8, uregRes := 0x00#8, rxbuf := Rxbuf.zero } := rfl

theorem goodAnswer_of_oneByte {r : Request} (h : r.reads = some 1) (code : BitVec 3) (rx : List Byte) :
    GoodAnswer r code rx ↔ code = 0#3 ∧ rx.length = 1 := by simp [GoodAnswer, h]

namespace ReadsFirst
variable {o : Op} {f : State → State} {g : Byte → State → State} (hr : ReadsFirst o f g)
include hr

theorem startOf_eq {i : Instr} (hop : i.op = o) : startOf i = startRead := by
  subst hop
  cases i with
  | readUreg _ | getResolution _ | setResolution _ _ => rfl
  | _ => cases hr

theorem expectedAt_txn1 (s : State) : expectedAt (some o) .txn1 s = some (txnRequest s linkRcmd) := by cases hr <;> rfl

theorem expectedAt_txn2 (s : State) : expectedAt (some o) .txn2 s = some (txnRequest s linkRd1) := by cases hr <;> rfl

theorem continue_txn1 {s : State} (ho : s.curOp = some o) (hp : s.phase = .txn1) (x : TxOutcome) (bytes : List Byte) :
    continueOp (.outcome x bytes) s = .next (readCommanded x f s) := by
  cases hr with
  | readUreg => exact continue_readUreg_txn1 ho hp
  | getResolution => exact continue_getResolution_txn1 ho hp
  | setResolution => exact continue_setResolution_txn1 ho hp

theorem continue_txn2 {s : State} (ho : s.curOp = some o) (hp : s.phase = .txn2) (x : TxOutcome) (bytes : List Byte) :
    continueOp (.outcome x bytes) s = readAnswered x bytes f g s := by
  cases hr with
  | readUreg => exact continue_readUreg_txn2 ho hp
  | getResolution => exact continue_getResolution_txn2 ho hp
  | setResolution => exact continue_setResolution_txn2 ho hp

/-- The start part sends the read-user-register command. -/
theorem exec_eq {i : Instr} (hop : i.op = o) {s : State} (hb : s.busy = false) (hi : s.initDone = true) :
    exec i s = .next (issueTxn linkRcmd .txn1 (accept (encode i) s)) := by
  rw [exec_started hb fun _ => hi, hr.startOf_eq hop]
  rfl

section
variable {s : State} {code : BitVec 3} {rx : List Byte} {rest : List Event}

/-- TXN_1: a good answer issues the 1-byte read, and every other one ends the operation. -/
theorem step_txn1 (h : Answering s o .txn1 code rx rest) :
    (code = 0#3 ∧ rx = [] → step s = .next (issueTxn linkRd1 .txn2 (clearPend (withInputs rest s)))) ∧
      (¬ (code = 0#3 ∧ rx = []) → step s = .next (complete (answerErr code) (f (clearPend (withInputs rest s))))) := by
  have hgood := goodAnswer_of_writeOnly (r := txnRequest s linkRcmd) rfl code rx
  rw [← hgood]
  exact h.step_onOutcome (hr.expectedAt_txn1 s) rfl
    (hr.continue_txn1 (s := clearPend (withInputs rest s)) h.op h.phase) fun _ he => he

/-- TXN_2: a good answer is one byte, and the operation's final step takes it; every other answer ends the operation. -/
theorem step_txn2 (h : Answering s o .txn2 code rx rest) :
    (∀ b, code = 0#3 ∧ rx = [b] → step s = .next (g b (clearPend (withInputs rest s)))) ∧
      (¬ (code = 0#3 ∧ rx.length = 1) →
        step s = .next (complete (answerErr code) (f (clearPend (withInputs rest s))))) := by
  have hgood := goodAnswer_of_oneByte (r := txnRequest s linkRd1) rfl code rx
  have hc := hr.continue_txn2 (s := clearPend (withInputs rest s)) h.op h.phase
  constructor
  · rintro b ⟨hcode, rfl⟩
    rw [h.step_good (hr.expectedAt_txn2 s) rfl (hgood.mpr ⟨hcode, rfl⟩), hc, readAnswered_ok]
  · intro hbad
    obtain ⟨x, hx, hmap, hs⟩ := h.step_bad (hr.expectedAt_txn2 s) rfl (mt hgood.mp hbad)
    rw [hs, hc, readAnswered_failed hx, hmap]

end
end ReadsFirst

/-! ### Runs -/

theorem coreRun_add (M : Host.Core) (n : Nat) {t : M.State} :
    ∀ {m : Nat} {s : M.State}, M.run m s = .next t → M.run (m + n) s = M.run n t
  | 0, s, h => by
    cases h
    rw [Nat.zero_add]
  | m + 1, s, h => by
    obtain ⟨u, hs, hu⟩ := coreRun_succ M h
    rw [Nat.add_right_comm, coreRun_next M hs, coreRun_add M n hu]

theorem run_add {m n : Nat} {s t : State} (h : core.run m s = .next t) : core.run (m + n) s = core.run n t :=
  coreRun_add core n h

theorem run_inv {t : State} : ∀ {n : Nat} {s : State}, s.Inv → core.run n s = .next t → t.Inv
  | 0, s, hi, h => by
    cases h
    exact hi
  | n + 1, s, hi, h => by
    obtain ⟨u, hs, hu⟩ := run_succ h
    exact run_inv (everyStepKeepsTheInvariant s u hi hs) hu

/-- Right after the issue of a transaction, the answer to it being the next event. -/
theorem answering_issueTxn {u : State} {l : Params → Link} {ph : Phase} {o : Op} {code : BitVec 3} {rx : List Byte}
    {rest : List Event} (hi : (issueTxn l ph u).Inv) (ho : u.curOp = some o)
    (hin : u.inputs = .transport u.nextTag code rx :: rest) : Answering (issueTxn l ph u) o ph code rx rest where
  inv := hi
  op := ho
  phase := rfl
  event := ⟨_, rfl, hin⟩

theorem curOp_of_encode {s : State} {i : Instr} (h : s.cmdl = encode i) : s.curOp = some i.op := by
  rw [State.curOp, h, fieldOp_encode, ofCode_code]

/-- The state in which the read sequence of `i`, begun in `s` and answered OK, hands the byte to the final step of `i`. -/
def byteRead (i : Instr) (rest : List Event) (s : State) : State :=
  { accept (encode i) s with phase := .txn2, pend := none, nextTag := s.nextTag + 2, inputs := rest }

/-- The read sequence takes three steps: the CMD write and two good answers. -/
theorem run_readSequence {o : Op} {f : State → State} {g : Byte → State → State} (hr : ReadsFirst o f g) {i : Instr}
    (hop : i.op = o) {s : State} (hi : s.Inv) (hb : s.busy = false) (hd : s.initDone = true) {b : Byte}
    {rest : List Event} (h : HostWrites s.inputs 0x04 4 (encode i)
      (.transport s.nextTag 0#3 [] :: .transport (s.nextTag + 1) 0#3 [b] :: rest)) :
    core.run 3 s = .next (g b (byteRead i rest s)) := by
  subst hop
  have h1 := (step_cmdWrite_ok h (decode_encode i)).trans (hr.exec_eq rfl hb hd)
  have hi1 := everyStepKeepsTheInvariant _ _ hi h1
  have h2 := (hr.step_txn1 (answering_issueTxn hi1 (curOp_of_encode rfl) rfl)).1 ⟨rfl, rfl⟩
  have hi2 := everyStepKeepsTheInvariant _ _ hi1 h2
  have h3 := (hr.step_txn2 (answering_issueTxn hi2 (curOp_of_encode rfl) rfl)).1 b ⟨rfl, rfl⟩
  rw [run_next h1, run_next h2, run_next h3]
  rfl

/-- The write-back answered OK completes SET_RESOLUTION. -/
theorem step_writeBack {u : State} {v : Byte} {rest : List Event} (hi : (writeBack v u).Inv)
    (ho : u.curOp = some .setResolution) (hin : u.inputs = .transport u.nextTag 0#3 [] :: rest) :
    step (writeBack v u) = .next (complete .ok (clearPend (withInputs rest (writeBack v u)))) :=
  (answering_issueTxn (o := .setResolution) hi ho hin).step_lastWrite rfl rfl rfl
    fun _ _ => continue_setResolution_txn3 ho rfl

/-- The pending write-back carries one byte: the merged one (R225). -/
theorem byte_of_pend_writeBack {u : State} {v v' : Byte} {tag tmo : Nat} {port : Port}
    (h : (writeBack v u).pend = some ⟨tag, .txn port (linkWreg v' Config.params) tmo⟩) : v = v' := by
  obtain ⟨-, hlink, -⟩ := Request.txn.inj (Pending.mk.inj (Option.some.inj h)).2
  simpa [linkWreg, writeLink, primW] using hlink

end Sys2Proof.Machine

open Sys2Proof Sys2Proof.Machine

/-- Settles O19: READ_UREG is the read sequence with UREG.RD and RXBUF as its only results. -/
theorem readUregReadsOneByte : Obligations.ReadUregReadsOneByte := by
  refine ⟨fun ign s hb hi => ?_, fun s code rx rest => ReadsFirst.readUreg.step_txn1,
    fun s code rx rest => ReadsFirst.readUreg.step_txn2, ?_⟩
  · rw [ReadsFirst.readUreg.exec_eq rfl hb hi, accept_encode]
    rfl
  · exact exists_decode_iff (o := .readUreg) (fun _ => rfl) fun _ => rfl

/-- Settles O20: the start part writes UREG.WR and issues the write, whose answer completes the operation either way. -/
theorem writeUregSendsTheByteUnmasked : Obligations.WriteUregSendsTheByteUnmasked := by
  refine ⟨fun value ign s hb hi => ?_, fun s code rx rest h => ?_, ?_⟩
  · rw [exec_started hb fun _ => hi, accept_encode]
    rfl
  · exact h.step_lastWrite (r := txnRequest s (linkWreg (fieldArgLo s.cmdl))) rfl rfl rfl
      fun _ _ => continue_writeUreg_txn1 (s := clearPend (withInputs rest s)) h.op h.phase
  · exact exists_decode_byte_iff (o := .writeUreg) (fun _ _ => rfl) (fun _ => rfl) fun h => (Instr.writeUreg.inj h).1

/-- Settles O21: GET_RESOLUTION is the read sequence with UREG.RES as a further result. -/
theorem getResolutionMasksTheByteRead : Obligations.GetResolutionMasksTheByteRead := by
  refine ⟨fun ign s hb hi => ?_, fun s code rx rest h => ?_, fun s code rx rest h => ?_, ?_⟩
  · rw [ReadsFirst.getResolution.exec_eq rfl hb hi, accept_encode]
    rfl
  · have ⟨hgood, hbad⟩ := ReadsFirst.getResolution.step_txn1 h
    rw [failResolution_eq] at hbad
    exact ⟨hgood, hbad⟩
  · have ⟨hgood, hbad⟩ := ReadsFirst.getResolution.step_txn2 h
    rw [failResolution_eq] at hbad
    exact ⟨hgood, hbad⟩
  · exact exists_decode_iff (o := .getResolution) (fun _ => rfl) fun _ => rfl

/-- Settles O22: the read sequence, whose final step issues the write-back, and the answer to it. -/
theorem setResolutionReadsMergesAndWritesBack : Obligations.SetResolutionReadsMergesAndWritesBack := by
  refine ⟨fun resolution ign s hb hi => ?_, fun s code rx rest => ReadsFirst.setResolution.step_txn1,
    fun s code rx rest => ReadsFirst.setResolution.step_txn2, fun s code rx rest h => ?_, ?_⟩
  · rw [ReadsFirst.setResolution.exec_eq rfl hb hi, accept_encode]
    rfl
  · exact h.step_lastWrite (r := txnRequest s (linkWreg s.newv)) rfl rfl rfl
      fun _ _ => continue_setResolution_txn3 (s := clearPend (withInputs rest s)) h.op h.phase
  · exact exists_decode_byte_iff (o := .setResolution) (fun _ _ => rfl) (fun _ => rfl)
      fun h => (Instr.setResolution.inj h).1

/-- Settles O23, from the bits of the merged byte. -/
theorem mergedResolutionKeepsTheReservedBits : Obligations.MergedResolutionKeepsTheReservedBits :=
  fun cur resolution => ⟨rfl, rfl, fun _ hk => mergeResolution_getLsbD cur resolution hk,
    fun _ h => congrArg ((cur &&& keepMask) ||| ·) h⟩

/-- Settles O56: the read sequence of SET_RESOLUTION and its write-back, then the read sequence of GET_RESOLUTION. The
premise on the sensor says that `back` is the merged byte. -/
theorem setThenGetResolutionRoundTrips : Obligations.SetThenGetResolutionRoundTrips := by
  intro s r cur back ign ign' set get rest hi hb hd hset hget hin hsensor
  have h3 := run_readSequence .setResolution rfl hi hb hd (HostWrites.intro hin hset)
  rw [resolutionMerged_eq rfl] at h3
  obtain rfl : mergeResolution cur r = back := byte_of_pend_writeBack (hsensor _ h3)
  have hi3 := run_inv hi h3
  have h4 := step_writeBack hi3 (curOp_of_encode (i := .setResolution r ign) rfl) rfl
  have h7 := run_readSequence .getResolution rfl (everyStepKeepsTheInvariant _ _ hi3 h4) rfl hd (HostWrites.intro rfl hget)
  exact ⟨_, (run_add (n := 4) h3).trans ((run_next h4).trans h7), rfl, rfl, rfl, mergeResolution_and_resMask cur r, rfl,
    rfl, mergeResolution_and_keepMask cur r, rfl⟩
end

section
/-! The validator and the generator of the CRC (44_crc.md R270, R271): what the division leaves of each byte of the row, and
which byte is valid. -/

namespace Sys2Proof.Machine

/-- Iterations that test only bits the row does not have leave it as it is. -/
theorem crcDivide_skip {n : Nat} {row : BitVec 24} (h : ∀ k, n + 8 ≤ k → row.getLsbD k = false) :
    ∀ (m : Nat) (d : BitVec 24), crcDivide (n + m) row d = crcDivide n row (d >>> m)
  | 0, d => by rw [Nat.add_zero, BitVec.ushiftRight_zero]
  | m + 1, d => by
    have htest : row.getLsbD (n + m + 8) = false := h _ (by omega)
    rw [← Nat.add_assoc, crcDivide, htest, if_neg Bool.false_ne_true, crcDivide_skip h m, ← BitVec.shiftRight_add,
      Nat.add_comm 1 m]

/-- The iteration that tests bit `n + 8` has the divisor's leading 1 there. -/
theorem crcDivisor_ushiftRight : ∀ n < 16, crcDivisor >>> (16 - (n + 1)) = 0x131#24 <<< n := by decide

/-- The generator's shift is the subtraction of the polynomial from a 9-bit row. -/
theorem setWidth_crc8Step (c : Byte) :
    (if c.getLsbD 7 then (c <<< 1) ^^^ 0x31#8 else c <<< 1).setWidth 24 =
      if c.getLsbD 7 then (c.setWidth 24 <<< 1) ^^^ 0x131#24 else c.setWidth 24 <<< 1 := by
  decide +revert

theorem getLsbD_setWidth_shiftLeft_eq_false (c : Byte) {n k : Nat} (h : n + 8 ≤ k) :
    (c.setWidth 24 <<< n).getLsbD k = false := by
  have hc : c.getLsbD (k - n) = false := BitVec.getLsbD_of_ge c _ (by omega)
  simp [BitVec.getLsbD_setWidth, hc]

/-- Dividing a byte `n` bits up the row is `n` of the generator's shifts. -/
theorem crcDivide_byte : ∀ {n : Nat} (c : Byte), n ≤ 16 →
    crcDivide n (c.setWidth 24 <<< n) (crcDivisor >>> (16 - n)) = (crc8Shift n c).setWidth 24
  | 0, c, _ => BitVec.shiftLeft_zero _
  | n + 1, c, hn => by
    have htest : (c.setWidth 24 <<< (n + 1)).getLsbD (n + 8) = c.getLsbD 7 := by
      simp [show n + 8 < 24 by omega, show n + 8 - (n + 1) = 7 by omega]
    have hnext : crcDivisor >>> (16 - (n + 1)) >>> 1 = crcDivisor >>> (16 - n) := by
      rw [← BitVec.shiftRight_add, show 16 - (n + 1) + 1 = 16 - n by omega]
    have hrow : (if c.getLsbD 7 then c.setWidth 24 <<< (n + 1) ^^^ 0x131#24 <<< n else c.setWidth 24 <<< (n + 1)) =
        (if c.getLsbD 7 then (c <<< 1) ^^^ 0x31#8 else c <<< 1).setWidth 24 <<< n := by
      rw [setWidth_crc8Step, Nat.add_comm n 1, BitVec.shiftLeft_add]
      split
      · rw [BitVec.shiftLeft_xor_distrib]
      · rfl
    rw [crcDivide, htest, hnext, crcDivisor_ushiftRight n hn, hrow, crcDivide_byte _ (Nat.le_of_succ_le hn), crc8Shift]

/-- A byte in place for the last `n` of the 16 iterations. -/
theorem crcDivide_byte_late {n m : Nat} (h : n + m = 16) (c : Byte) :
    crcDivide 16 (c.setWidth 24 <<< n) crcDivisor = (crc8Shift n c).setWidth 24 := by
  have hm : m = 16 - n := by omega
  rw [← h, crcDivide_skip fun k hk => getLsbD_setWidth_shiftLeft_eq_false c hk, hm, crcDivide_byte c (by omega)]

theorem crc8Shift_add : ∀ (m n : Nat) (c : Byte), crc8Shift (m + n) c = crc8Shift n (crc8Shift m c)
  | 0, n, c => by rw [Nat.zero_add]; rfl
  | m + 1, n, c => by rw [Nat.add_right_comm, crc8Shift, crc8Shift, crc8Shift_add m n]

/-- The row before the loop, as its three bytes (R270). -/
theorem row_eq_bytes (value : Half) (crc : Byte) : (value ++ crc : BitVec (16 + 8)) =
    (value.extractLsb' 8 8).setWidth 24 <<< 16 ^^^ (value.extractLsb' 0 8).setWidth 24 <<< 8 ^^^ crc.setWidth 24 <<< 0 := by
  apply BitVec.eq_of_getLsbD_eq
  intro k hk
  simp only [BitVec.getLsbD_append, BitVec.getLsbD_xor, BitVec.getLsbD_shiftLeft, BitVec.getLsbD_setWidth,
    BitVec.getLsbD_extractLsb']
  rcases (by omega : k < 8 ∨ 8 ≤ k ∧ k < 16 ∨ 16 ≤ k) with h | ⟨h, h'⟩ | h
  · simp [h, hk, show k < 16 by omega]
  · have hc : crc.getLsbD k = false := BitVec.getLsbD_of_ge crc k h
    simp [hc, hk, h', show ¬ k < 8 by omega, show k - 8 < 8 by omega, show k - 8 < 24 by omega]
  · have hc : crc.getLsbD k = false := BitVec.getLsbD_of_ge crc k (by omega)
    simp [hc, hk, show ¬ k < 8 by omega, show ¬ k < 16 by omega, show k - 16 < 8 by omega, show k - 16 < 24 by omega,
      show 8 + (k - 16) = k - 8 by omega, show ¬ k - 8 < 8 by omega]

/-- The loop leaves the difference of the byte checked and the byte generated (R271). -/
theorem crcRemainder_eq (value : Half) (crc : Byte) : crcRemainder value crc = (crc ^^^ crc8 value).setWidth 24 := by
  rw [crcRemainder, row_eq_bytes, crcDivide_xor, crcDivide_xor, crcDivide_byte_late (m := 0) rfl,
    crcDivide_byte_late (m := 8) rfl, crcDivide_byte_late (m := 16) rfl, ← BitVec.setWidth_xor, ← BitVec.setWidth_xor,
    crc8, crc8Shift_xor, BitVec.zero_xor, ← crc8Shift_add 8 8, BitVec.xor_comm crc]
  rfl

/-- The validator accepts the generated byte and no other (R271). -/
theorem crcValid_iff (value : Half) (crc : Byte) : crcValid value crc = true ↔ crc = crc8 value := by
  rw [crcValid, beq_iff_eq, crcRemainder_eq]
  constructor
  · intro h
    rw [← BitVec.xor_eq_zero_iff, ← BitVec.setWidth_eq (crc ^^^ crc8 value),
      ← BitVec.setWidth_setWidth_of_le _ (by decide : 8 ≤ 24), h]
    rfl
  · rintro rfl
    rw [BitVec.xor_self]
    rfl

end Sys2Proof.Machine
end

section
/-! MEASURE_T and MEASURE_RH (43_measurement.md): the sequence the two share, from the trigger to the read's answer, the word
it delivers, and how a step can enter its phases. -/

namespace Sys2Proof.Machine

/-! ### The measurement word (R245) -/

theorem measureWord_and_mask (msb lsb : Byte) :
    measureWord msb lsb &&& 0xFFFC#16 = (msb ++ (lsb &&& 0xFC#8) : BitVec (8 + 8)) := by
  rw [measureWord, show (0xFFFC#16 : BitVec (8 + 8)) = BitVec.allOnes 8 ++ 0xFC#8 from rfl, BitVec.and_append,
    BitVec.and_allOnes]

theorem measureWord_status (msb lsb : Byte) : (measureWord msb lsb).extractLsb' 0 2 = lsb.extractLsb' 0 2 :=
  BitVec.extractLsb'_append_eq_of_add_le (by decide)

/-! ### The measurement sequence (R242) -/

/-- The two measurements, each with its trigger: R240 and R241 differ in nothing else. -/
inductive Measures : Op → (Params → Link) → Prop
  | measureT : Measures .measureT linkTrigT
  | measureRh : Measures .measureRh linkTrigRh

theorem exists_measures {o : Op} (h : o = .measureT ∨ o = .measureRh) : ∃ trig, Measures o trig := by
  rcases h with rfl | rfl
  · exact ⟨_, .measureT⟩
  · exact ⟨_, .measureRh⟩

theorem goodAnswer_of_counted {r : Request} {n : Nat} (h : r.reads = some n) (code : BitVec 3) (rx : List Byte) :
    GoodAnswer r code rx ↔ code = 0#3 ∧ rx.length = n := by simp [GoodAnswer, h]

/-- The only request that WAIT_CONV waits for is the conversion wait. -/
theorem request_of_waitConv {s : State} {p : Pending} (hi : s.Inv) (hp : s.pend = some p) (hph : s.phase = .waitConv) :
    p.req = delayRequest := by
  cases position_of_pending hi hp <;> rename_i ph hr
  case wait => exact hr
  all_goals cases hph.symm.trans ph

/-- WAIT_CONV: ELAPSED issues the read. -/
theorem step_waitConv {s : State} {p : Pending} {rest : List Event} (hi : s.Inv) (hph : s.phase = .waitConv)
    (hp : s.pend = some p) (hin : s.inputs = .elapsed p.tag :: rest) :
    step s = .next (issueTxn linkRd3 .txn2 (clearPend (withInputs rest s))) := by
  have hd : p.req.isDelay = true := by
    rw [request_of_waitConv hi hp hph]
    rfl
  obtain ⟨-, -, -, hc⟩ := waited_of_elapsed hi hp hd rest
  exact (step_elapsed hp hd hin).trans hc

namespace Measures
variable {o : Op} {trig : Params → Link} (hm : Measures o trig)
include hm

theorem curOp_cases {s : State} (h : s.curOp = some o) : s.curOp = some .measureT ∨ s.curOp = some .measureRh := by
  cases hm with
  | measureT => exact .inl h
  | measureRh => exact .inr h

theorem startOf_eq {i : Instr} (hop : i.op = o) : startOf i = startMeasure trig := by
  subst hop
  cases i with
  | measureT _ | measureRh _ => cases hm; rfl
  | _ => cases hm

theorem linkReads_trigger (p : Params) : linkReads (trig p) = 0 := by
  cases hm with
  | measureT => exact reads_trigT p
  | measureRh => exact reads_trigRh p

theorem expectedAt_txn1 (s : State) : expectedAt (some o) .txn1 s = some (txnRequest s trig) := by cases hm <;> rfl

theorem expectedAt_txn2 (s : State) : expectedAt (some o) .txn2 s = some (txnRequest s linkRd3) := by cases hm <;> rfl

/-- The start part sends the trigger. -/
theorem exec_eq {i : Instr} (hop : i.op = o) {s : State} (hb : s.busy = false) (hi : s.initDone = true) :
    exec i s = .next (issueTxn trig .txn1 (accept (encode i) s)) := by
  rw [exec_started hb fun _ => hi, hm.startOf_eq hop]
  rfl

section
variable {s : State} {code : BitVec 3} {rx : List Byte} {rest : List Event}

/-- TXN_1: a good answer starts the wait, and every other one ends the operation. -/
theorem step_txn1 (h : Answering s o .txn1 code rx rest) :
    (code = 0#3 ∧ rx = [] → step s = .next (issue delayRequest .waitConv (clearPend (withInputs rest s)))) ∧
      (¬ (code = 0#3 ∧ rx = []) →
        step s = .next (complete (answerErr code) (failMeasure (clearPend (withInputs rest s))))) := by
  have hreads : (txnRequest s trig).reads = some 0 := congrArg some (hm.linkReads_trigger _)
  rw [← goodAnswer_of_writeOnly hreads]
  have ho := hm.curOp_cases (s := clearPend (withInputs rest s)) h.op
  exact h.step_onOutcome (hm.expectedAt_txn1 s) rfl
    (fun _ _ => (continue_measure ho).trans (continueMeasure_txn1 h.phase)) fun _ he => he

/-- TXN_2: a good answer is three bytes, which the measurement takes; every other answer ends the operation. -/
theorem step_txn2 (h : Answering s o .txn2 code rx rest) :
    (∀ msb lsb crc, code = 0#3 ∧ rx = [msb, lsb, crc] →
        step s = .next (measureTaken msb lsb crc (clearPend (withInputs rest s)))) ∧
      (¬ (code = 0#3 ∧ rx.length = 3) →
        step s = .next (complete (answerErr code) (failMeasure (clearPend (withInputs rest s))))) := by
  have hgood := goodAnswer_of_counted (r := txnRequest s linkRd3) (n := 3) rfl code rx
  have ho := hm.curOp_cases (s := clearPend (withInputs rest s)) h.op
  have hc : ∀ x bytes, continueOp (.outcome x bytes) (clearPend (withInputs rest s)) =
      measureAnswered x bytes (clearPend (withInputs rest s)) :=
    fun _ _ => (continue_measure ho).trans (continueMeasure_txn2 h.phase)
  constructor
  · rintro msb lsb crc ⟨hcode, rfl⟩
    rw [h.step_good (hm.expectedAt_txn2 s) rfl (hgood.mpr ⟨hcode, rfl⟩), hc, measureAnswered_ok]
  · intro hbad
    obtain ⟨x, hx, hmap, hs⟩ := h.step_bad (hm.expectedAt_txn2 s) rfl (mt hgood.mp hbad)
    rw [hs, hc, measureAnswered_failed hx, hmap]

end
end Measures

/-- The state in which the measurement `i`, begun in `s` and answered OK up to its read, takes the bytes. -/
def wordRead (i : Instr) (rest : List Event) (s : State) : State :=
  { accept (encode i) s with phase := .txn2, pend := none, nextTag := s.nextTag + 3, inputs := rest }

/-- A measurement takes four steps: the CMD write, the trigger's answer, the end of the wait and the read's answer. -/
theorem run_measure {o : Op} {trig : Params → Link} (hm : Measures o trig) {i : Instr} (hop : i.op = o) {s : State}
    (hi : s.Inv) (hb : s.busy = false) (hd : s.initDone = true) {msb lsb crc : Byte} {rest : List Event}
    (h : HostWrites s.inputs 0x04 4 (encode i) (.transport s.nextTag 0#3 [] :: .elapsed (s.nextTag + 1) ::
      .transport (s.nextTag + 2) 0#3 [msb, lsb, crc] :: rest)) :
    core.run 4 s = .next (measureTaken msb lsb crc (wordRead i rest s)) := by
  subst hop
  have h1 := (step_cmdWrite_ok h (decode_encode i)).trans (hm.exec_eq rfl hb hd)
  have hi1 := everyStepKeepsTheInvariant _ _ hi h1
  have h2 := (hm.step_txn1 (answering_issueTxn hi1 (curOp_of_encode rfl) rfl)).1 ⟨rfl, rfl⟩
  have hi2 := everyStepKeepsTheInvariant _ _ hi1 h2
  have h3 := step_waitConv hi2 rfl rfl rfl
  have hi3 := everyStepKeepsTheInvariant _ _ hi2 h3
  have h4 := (hm.step_txn2 (answering_issueTxn hi3 (curOp_of_encode rfl) rfl)).1 msb lsb crc ⟨rfl, rfl⟩
  rw [run_next h1, run_next h2, run_next h3, run_next h4]
  rfl

/-! ### How the phases of a measurement are entered (R244, R348) -/

theorem Answered.of_waitConv {u t : State} (h : Answered u t) (hph : t.phase = .waitConv) : u.phase = .txn1 := by
  cases h <;> rename_i ht
  case triggered o ph => exact ph
  all_goals subst ht; cases hph

/-- An answer of the transport leads to TXN_2 only in the read sequence of the user register. -/
theorem Answered.of_txn2 {u t : State} (h : Answered u t) (hph : t.phase = .txn2) :
    u.curOp = some .readUreg ∨ u.curOp = some .getResolution ∨ u.curOp = some .setResolution := by
  cases h <;> rename_i ht
  case readCommanded o ph => exact o
  all_goals subst ht; cases hph

/-- A step that enters WAIT_CONV or TXN_2 is an answer: the transport's, or the timer's at the end of the wait. -/
theorem StepKind.answer_of_enters {s t : State} (h : StepKind s t) (hne : s.phase ≠ t.phase)
    (hph : t.phase = .waitConv ∨ t.phase = .txn2) :
    (∃ rest, Answered (clearPend (withInputs rest s)) t) ∨
      ∃ p rest, s.pend = some p ∧ s.inputs = .elapsed p.tag :: rest ∧ s.phase = .waitConv ∧
        t = issueTxn linkRd3 .txn2 (clearPend (withInputs rest s)) := by
  cases h with
  | quiet hr ha h => exact absurd h.phase.symm hne
  | refused v rest e h hb hd ht =>
    subst ht
    rcases hph with hph | hph <;> cases hph
  | started v i rest h hb hd hg ht =>
    subst ht
    rcases startOf_phase i (accept v (withInputs rest s)) with hs | hs | hs <;> simp [hs] at hph
  | answered p code rx rest hp h hc ha => exact .inl ⟨rest, ha⟩
  | waited p rest hp h o ph ht => exact .inr ⟨p, rest, hp, h, ph, ht⟩
  | reset rest h ht =>
    subst ht
    rcases hph with hph | hph <;> cases hph

end Sys2Proof.Machine

open Sys2Proof Sys2Proof.Machine

/-- Settles O24: the two measurements run one sequence, each with its own trigger. -/
theorem measurementTriggersWaitsReadsAndChecks : Obligations.MeasurementTriggersWaitsReadsAndChecks := by
  refine ⟨fun ign s hb hi => ?_, fun s o code rx rest ho h => ?_, fun s o p rest _ hi _ hph hp hin => ?_,
    fun s o code rx rest ho h => ?_⟩
  · rw [Measures.measureT.exec_eq rfl hb hi, Measures.measureRh.exec_eq rfl hb hi, accept_encode, accept_encode]
    exact ⟨rfl, rfl⟩
  · obtain ⟨trig, hm⟩ := exists_measures ho
    exact hm.step_txn1 h
  · exact step_waitConv hi hph hp hin
  · obtain ⟨trig, hm⟩ := exists_measures ho
    exact hm.step_txn2 h

/-- Settles O30: the timer's answer is the only way into a measurement's TXN_2, the trigger's the only one into
WAIT_CONV. -/
theorem conversionWaitStandsBetweenTriggerAndRead : Obligations.ConversionWaitStandsBetweenTriggerAndRead := by
  intro s t hi hs ho
  refine ⟨fun hph hne => ?_, fun hph hne => ?_⟩
  · rcases (step_kind hs).answer_of_enters (by rwa [hph]) (.inr hph) with ⟨rest, ha⟩ | ⟨p, rest, hp, hin, hw, rfl⟩
    · have hread := ha.of_txn2 hph
      rw [← curOp_of_cmdl ha.frame.cmdl] at hread
      rcases ho with ho | ho <;> simp [ho] at hread
    · obtain ⟨tag, req⟩ := p
      obtain rfl : req = delayRequest := request_of_waitConv hi hp hw
      exact ⟨hw, rfl, tag, rest, hp, hin⟩
  · rcases (step_kind hs).answer_of_enters (by rwa [hph]) (.inl hph) with ⟨rest, ha⟩ | ⟨p, rest, -, -, -, rfl⟩
    · exact ⟨ha.of_waitConv hph, (curOp_of_cmdl ha.frame.cmdl).symm⟩
    · cases hph

/-- Settles O57: the run of the sequence, and what the read's bytes become. -/
theorem measurementRunDeliversTheWord : Obligations.MeasurementRunDeliversTheWord := by
  intro s i msb lsb crc cmd rest hi hb hd ho hcmd hin
  obtain ⟨trig, hm⟩ := exists_measures ho
  refine ⟨_, run_measure hm rfl hi hb hd (HostWrites.intro hin hcmd), rfl, rfl, rfl, rfl, crcValid_iff _ crc,
    measureWord_status msb lsb, measureWord_and_mask msb lsb, rfl, rfl, rfl, rfl, hd, rfl, rfl, rfl, rfl⟩
end

section
/-! The statements of 44_crc.md. CRC_CHECK completes in its accept step, and its words are those with its low byte; the loop's
remainder is the difference of the byte checked and the byte generated; and no single bit is divisible by the polynomial. -/

namespace Sys2Proof

/-- CRC_CHECK ignores no bit, so its operands are determined by the word (R280). -/
theorem decode_crcCheck_iff (w : Word) (value : Half) (crc : Byte) : decode w = .ok (.crcCheck value crc) ↔
    w.extractLsb' 0 8 = 0x09#8 ∧ value = w.extractLsb' 16 16 ∧ crc = w.extractLsb' 8 8 := by
  rw [decode_eq_ok_iff, Instr.op, Instr.ofFields, Instr.crcCheck.injEq, eq_comm (b := value), eq_comm (b := crc)]
  rfl

end Sys2Proof

namespace Sys2Proof.Machine

/-! ### The remainder (R271) -/

theorem crcRemainder_high (value : Half) (crc : Byte) : (crcRemainder value crc).extractLsb' 8 16 = 0#16 := by
  rw [crcRemainder_eq, BitVec.extractLsb'_setWidth_of_le (by decide)]
  exact BitVec.eq_of_getLsbD_eq fun k _ => by simp

theorem crcRemainder_low (value : Half) (crc : Byte) :
    (crcRemainder value crc).extractLsb' 0 8 = crc ^^^ crc8 value := by
  rw [crcRemainder_eq, BitVec.extractLsb'_setWidth_of_le (by decide), BitVec.extractLsb'_eq_self]

/-! ### Single-bit errors (R273) -/

/-- The row the validator divides is the message itself. -/
theorem crcValid_message_iff (m : BitVec 24) :
    crcValid (m.extractLsb' 8 16) (m.extractLsb' 0 8) = true ↔ crcDivide 16 m crcDivisor = 0#24 := by
  rw [crcValid, crcRemainder, BitVec.extractLsb'_append_extractLsb' (w := 16), beq_iff_eq]

/-- One shift of the generator loses no bit: the bit shifted out comes back as the polynomial's constant term. -/
theorem crc8Step_ne_zero {c : Byte} (hc : c ≠ 0#8) :
    (if c.getLsbD 7 then (c <<< 1) ^^^ 0x31#8 else c <<< 1) ≠ 0#8 := by
  decide +revert

theorem crc8Shift_ne_zero : ∀ (n : Nat) {c : Byte}, c ≠ 0#8 → crc8Shift n c ≠ 0#8
  | 0, _, hc => hc
  | n + 1, _, hc => crc8Shift_ne_zero n (crc8Step_ne_zero hc)

/-- An error within one byte of the row, wherever the byte lies, leaves a remainder. -/
theorem crcDivide_byte_ne_zero {n : Nat} (hn : n ≤ 16) {c : Byte} (hc : c ≠ 0#8) :
    crcDivide 16 (c.setWidth 24 <<< n) crcDivisor ≠ 0#24 := by
  rw [crcDivide_byte_late (Nat.add_sub_cancel' hn)]
  intro h
  exact crc8Shift_ne_zero n hc (by simpa using congrArg (BitVec.setWidth 8) h)

/-- Each bit of the row lies in a byte at most 16 bits up. -/
theorem singleBit_in_byte : ∀ k < 24,
    1#24 <<< k = (1#8 <<< (k - 16)).setWidth 24 <<< min k 16 ∧ 1#8 <<< (k - 16) ≠ 0#8 := by
  decide

theorem crcDivide_singleBit_ne_zero {k : Nat} (hk : k < 24) : crcDivide 16 (1#24 <<< k) crcDivisor ≠ 0#24 := by
  obtain ⟨hrow, hbit⟩ := singleBit_in_byte k hk
  rw [hrow]
  exact crcDivide_byte_ne_zero (Nat.min_le_right k 16) hbit

end Sys2Proof.Machine

open Sys2Proof Sys2Proof.Machine

/-- Settles O25: CRC_CHECK is no bus operation, and its start part completes it. -/
theorem crcCheckCompletesInItsAcceptStep : Obligations.CrcCheckCompletesInItsAcceptStep := by
  refine ⟨fun value crc s hb => ?_, decode_crcCheck_iff⟩
  rw [exec_started (i := .crcCheck value crc) hb nofun, accept_encode]
  rfl

/-- Settles O58: the remainder is the XOR of the checked and the generated byte, so the generated one alone is valid. -/
theorem crcValidAcceptsExactlyTheCrc8Byte : Obligations.CrcValidAcceptsExactlyTheCrc8Byte := fun value crc =>
  ⟨crcValid_iff value crc, crcRemainder_high value crc, crcRemainder_low value crc, crc8 value,
    (crcValid_iff value _).mpr rfl, fun c => (crcValid_iff value c).mp⟩

/-- Settles O59: division is linear, so what is left of the changed message is what is left of the flipped bit. -/
theorem crcDetectsEverySingleBitError : Obligations.CrcDetectsEverySingleBitError := by
  intro m k hk hm
  rw [crcValid_message_iff] at hm
  rw [← Bool.not_eq_true, crcValid_message_iff, crcDivide_xor, hm, BitVec.zero_xor]
  exact crcDivide_singleBit_ne_zero hk
end

section
/-! How a command ends (60_exceptions.md): the order of the checks on a CMD write, the codes a running operation completes
with, and that neither a fault nor an earlier error stands in the way of the next command. -/

namespace Sys2Proof.Machine

/-! ### What the start part leaves (R155, R306) -/

theorem isBusOp_iff {o : Op} : isBusOp o = true ↔
    o ∈ [.softReset, .readUreg, .writeUreg, .getResolution, .setResolution, .measureT, .measureRh] := by
  cases o <;> decide

/-- No start part reports an error: ERR stays as acceptance set it, and CRC_CHECK completes with OK. -/
theorem startOf_accept_err (i : Instr) (v : Word) (s : State) : (startOf i (accept v s)).err = .ok := by
  cases i <;> rfl

/-- CRC_CHECK alone completes in its start part (R280). -/
theorem startOf_completes {i : Instr} (h : i.op = .crcCheck) (s : State) :
    (startOf i s).busy = false ∧ (startOf i s).done = true := by
  cases i <;> cases h
  exact ⟨rfl, rfl⟩

theorem startOf_runs {i : Instr} (h : i.op ≠ .crcCheck) (s : State) :
    (startOf i s).busy = true ∧ (startOf i s).done = s.done := by
  cases i with
  | crcCheck value crc => exact absurd rfl h
  | _ => exact ⟨rfl, rfl⟩

/-! ### The codes of a completion (R300) -/

theorem mapOutcome_mem (x : TxOutcome) :
    mapOutcome x ∈ [.ok, .invalidArg, .fail, .invalidState, .timeout] := by
  cases x <;> decide

/-- An answer that completes INIT reports one of INIT's own codes (R196), and one that completes another operation reports
an outcome as mapped (R168). -/
theorem Answered.err_of_idle {u t : State} (h : Answered u t) (hi : t.phase = .idle) :
    u.curOp = some .init ∧ t.err ∈ [.ok, .config, .install, .notFound] ∨
      u.curOp ≠ some .init ∧ ∃ x, t.err = mapOutcome x := by
  cases h <;> rename_i ht <;> subst ht
  case configured | installed | readCommanded | resolutionMerged | triggered => cases hi
  case probed o ph => exact .inl ⟨o, by simp⟩
  case initFailed e o he => exact .inl ⟨o, by rcases he with ⟨-, rfl⟩ | ⟨-, rfl⟩ | ⟨-, rfl⟩ <;> simp⟩
  case written x o => exact .inr ⟨fun hinit => by simp [hinit] at o, x, rfl⟩
  case readFailed x hx o ph | resolutionFailed x hx o ph | measureFailed x hx o ph =>
    exact .inr ⟨fun hinit => by simp [hinit] at o, x, rfl⟩
  case readTaken o ph | resolutionTaken o ph | measured o ph =>
    exact .inr ⟨fun hinit => by simp [hinit] at o, .ok, rfl⟩

/-- Of the kinds of step only an answer ends a running operation, but for reset. -/
theorem answered_of_ends {s t : State} (hs : step s = .next t) (hb : s.busy = true) (hbt : t.busy = false)
    (hreset : ∀ rest, s.inputs ≠ .reset :: rest) : ∃ rest, Answered (clearPend (withInputs rest s)) t := by
  cases step_kind hs with
  | quiet hr ha h => exact absurd (hb.symm.trans ((busy_of_phase h.phase).symm.trans hbt)) nofun
  | refused v rest e h hb' hd ht => exact absurd (hb.symm.trans hb') nofun
  | started v i rest h hb' hd hg ht => exact absurd (hb.symm.trans hb') nofun
  | answered p code rx rest hp h hc ha => exact ⟨rest, ha⟩
  | waited p rest hp h o ph ht => subst ht; cases hbt
  | reset rest h ht => exact absurd h (hreset rest)

/-! ### No fault (R303) -/

theorem hostAccess_ne_fault (a : Access) (s : State) (f : Fault) : hostAccess a s ≠ .fault f := by
  unfold hostAccess
  split <;> split
  · split
    · unfold registerRead
      split <;> nofun
    · nofun
  · nofun
  · split
    · rename_i ha
      obtain ⟨-, h4, hl⟩ := admitted_offsets ha
      obtain ⟨t, ht⟩ := registerWrite_next h4 hl _ s
      rw [ht]
      nofun
    · nofun
  · nofun

/-- An answer numbered `tag` is for no pending request, or for this one. -/
theorem tag_cases (s : State) (tag : Nat) :
    (∀ p, s.pend = some p → p.tag ≠ tag) ∨ ∃ p, s.pend = some p ∧ p.tag = tag := by
  by_cases h : ∃ p, s.pend = some p ∧ p.tag = tag
  · exact .inr h
  · exact .inl fun p hp ht => h ⟨p, hp, ht⟩

/-- The owner's answer to the pending request has a continuation at every control position; any other answer is
discarded or refused. -/
theorem step_ne_fault {s : State} (hi : s.Inv) (f : Fault) : step s ≠ .fault f := by
  cases hin : s.inputs with
  | nil => rw [step_nil hin]; nofun
  | cons e rest =>
    cases e with
    | host a => rw [step_cons hin]; exact hostAccess_ne_fault a _ f
    | transport tag code rx =>
      rcases tag_cases s tag with htag | ⟨p, hp, rfl⟩
      · rw [step_cons hin, handle, transportAnswer_of_tag_ne (s := withInputs rest s) htag]
        nofun
      · cases hd : p.req.isDelay with
        | true => rw [step_transport_refused hp hd hin]; nofun
        | false =>
          obtain ⟨t, ht, -⟩ := step_answer hi hp hin (Event.answers_iff.mpr (.inl ⟨⟨code, rx, rfl⟩, hd⟩))
          rw [ht]
          nofun
    | elapsed tag =>
      rcases tag_cases s tag with htag | ⟨p, hp, rfl⟩
      · rw [step_cons hin, handle, timerAnswer_of_tag_ne (s := withInputs rest s) htag]
        nofun
      · cases hd : p.req.isDelay with
        | false => rw [step_elapsed_refused hp hd hin]; nofun
        | true =>
          obtain ⟨t, ht, -⟩ := step_answer hi hp hin (Event.answers_iff.mpr (.inr ⟨rfl, hd⟩))
          rw [ht]
          nofun
    | reset => rw [step_cons hin]; nofun

/-! ### No sticky error (R303) -/

/-- `exec` while IDLE: the gate, then the start part, on the accepted state. -/
theorem exec_idle {i : Instr} {s : State} (hb : s.busy = false) : exec i s = .next
    (if isBusOp i.op && !s.initDone then complete .invalidState (accept (encode i) s)
      else startOf i (accept (encode i) s)) := by
  rw [exec_eq, if_neg (by simp [hb])]

/-- A CMD write while IDLE goes by the state that acceptance makes, so by none of the fields acceptance overwrites. -/
theorem hostWriteCmd_congr {v : Word} {s u : State} (hb : s.busy = false) (h : accept v s = accept v u) :
    hostWriteCmd v s = hostWriteCmd v u := by
  have hu : u.busy = false := (congrArg State.busy h).symm.trans hb
  have hi : s.initDone = u.initDone := by simpa only [accept_initDone] using congrArg State.initDone h
  cases hd : decode v with
  | ok i =>
    rw [hostWriteCmd_ok hd, hostWriteCmd_ok hd, exec_idle hb, exec_idle hu, hi, encode_of_decode_ok hd, h]
  | error r =>
    rw [hostWriteCmd_reserved hd, hostWriteCmd_reserved hd, reservedCommand, command_idle _ _ _ hb,
      command_idle _ _ _ hu, h]

theorem step_cmdWrite_congr {s u : State} {v : Word} {rest : List Event} (hs : HostWrites s.inputs 0x04 4 v rest)
    (hu : HostWrites u.inputs 0x04 4 v rest) (hb : s.busy = false)
    (h : accept v (withInputs rest s) = accept v (withInputs rest u)) : step s = step u := by
  rw [step_hostWrite hs rfl (by decide), step_hostWrite hu rfl (by decide)]
  exact hostWriteCmd_congr hb h

end Sys2Proof.Machine

open Sys2Proof Sys2Proof.Machine

/-- Settles O12: the four checks are the forms of the accept step. -/
theorem commandChecksComeInOrder : Obligations.CommandChecksComeInOrder := by
  intro s v rest h
  refine ⟨fun hb => ?_, fun hb r hd => ?_, fun hb hi i hd hop => ?_, fun hb i hd hop => ?_⟩
  · exact (step_hostWrite h (by decide) (by decide)).trans (hostWriteCmd_busy v _ hb)
  · exact ⟨_, step_cmdWrite_reserved h hb hd, rfl, rfl, rfl⟩
  · have hstep := (step_cmdWrite_ok h hd).trans (exec_gated hb hi (isBusOp_iff.mpr hop))
    exact ⟨_, hstep, rfl, rfl, rfl⟩
  · have hg : isBusOp i.op = true → s.initDone = true := fun hbus => by
      rcases hop with hop | hop | hinit
      · rw [hop] at hbus; cases hbus
      · rw [hop] at hbus; cases hbus
      · exact hinit
    have hstep := (step_cmdWrite_ok h hd).trans (exec_started hb hg)
    exact ⟨_, hstep, startOf_accept_err i _ _, fun hcrc => startOf_completes hcrc _, fun hcrc => startOf_runs hcrc _⟩

/-- Settles O29: the step that ends the operation is an answer, whose code `Answered.err_of_idle` gives. -/
theorem completionCodesByOperation : Obligations.CompletionCodesByOperation := by
  intro s t _ hb hs hbt hreset
  have hph : t.phase = .idle := (busy_eq_false_iff t).mp hbt
  obtain ⟨rest, ha⟩ := answered_of_ends hs hb hbt hreset
  refine ⟨ha.done_of_idle hph, fun o => ?_, fun o => ?_⟩
  · rcases ha.err_of_idle hph with ⟨-, he⟩ | ⟨hne, -⟩
    · exact he
    · exact absurd o hne
  · rcases ha.err_of_idle hph with ⟨hinit, -⟩ | ⟨-, x, he⟩
    · exact absurd hinit o
    · rw [he]
      exact mapOutcome_mem x

/-- Settles O41: acceptance overwrites ERR, DONE and the CRC flags before anything reads them. -/
theorem noStepFaultsAndNoErrorIsSticky : Obligations.NoStepFaultsAndNoErrorIsSticky := by
  refine ⟨fun s f hi => step_ne_fault hi f, fun s v rest h hb => ?_⟩
  obtain ⟨t, hs⟩ := step_hostWrite_next h rfl (by decide)
  obtain ⟨hcmdl, hdrop⟩ : t.cmdl = v ∧ t.drop = s.drop := by
    rcases accepted_cases hs h hb with ⟨⟨e, rfl⟩, -⟩ | ⟨i, -, rfl⟩
    · exact ⟨rfl, rfl⟩
    · have hf := startOf_frame i (accept v (withInputs rest s))
      exact ⟨hf.cmdl, hf.drop⟩
  refine ⟨t, hs, hcmdl, hdrop, fun e d c k => ?_⟩
  have heq := step_cmdWrite_congr (s := { s with err := e, done := d, crcChecked := c, crcOk := k }) (u := s) h h hb rfl
  exact heq.trans hs
end

section
/-! SUPPORT. What a step does to the schedule and to the numbers of requests, and what holds along a run because every step
keeps it (70_reset_and_hazards.md R341, R355). -/

namespace Sys2Proof.Machine

/-- What every step keeps holds along a run. -/
theorem run_preserves {P : State → Prop} (hP : ∀ {u v : State}, P u → step u = .next v → P v) {t : State} :
    ∀ {n : Nat} {s : State}, P s → core.run n s = .next t → P t
  | 0, s, hs, h => by
    cases h
    exact hs
  | n + 1, s, hs, h => by
    obtain ⟨u, hu, hrun⟩ := run_succ h
    exact run_preserves hP (hP hs hu) hrun

/-! ### The schedule -/

theorem HostWrites.tail {l rest : List Event} {off size : Nat} {v : Word} (h : HostWrites l off size v rest) :
    l.tail = rest := by
  obtain ⟨addr, rfl⟩ := h.event
  rfl

theorem HostReads.tail {l rest : List Event} {off size : Nat} (h : HostReads l off size rest) : l.tail = rest := by
  obtain ⟨addr, rfl⟩ := h.event
  rfl

theorem Answered.inputs {u t : State} (h : Answered u t) : t.inputs = u.inputs := by
  cases h <;> rename_i ht <;> subst ht <;> rfl

/-- A step takes the oldest event off the schedule, and adds none (R171). -/
theorem step_inputs {s t : State} (hs : step s = .next t) : t.inputs = s.inputs.tail := by
  cases step_shape hs with
  | waits h ht => rw [ht, h]; rfl
  | hostRead off w rest h hoff hw ht => rw [ht, h.tail]; rfl
  | writeCfg v rest h ht => rw [ht, h.tail]; rfl
  | dropped v rest h hb ht => rw [ht, h.tail]; rfl
  | reserved v r rest h hb hd ht => rw [ht, h.tail]; rfl
  | gated v i rest h hb hd hg hi ht => rw [ht, h.tail]; rfl
  | started v i rest h hb hd hg ht => rw [ht, h.tail, startOf_inputs]; rfl
  | writeStatus v rest h ht => rw [ht, h.tail]; rfl
  | ignored off v rest h hoff ht => rw [ht, h.tail]; rfl
  | discarded e rest h he ht => rw [ht, h]; rfl
  | transport p code rx rest hp h hd hc => rw [(Answered.of_continueOp hc).inputs, h]; rfl
  | elapsed p rest hp h hd hc =>
    obtain ⟨-, -, ht⟩ := continueOp_elapsed_next hc
    rw [ht, h]; rfl
  | reset rest h ht => rw [ht, h]; rfl

/-! ### Abandoned requests (R341) -/

/-- The number has been given out, and no pending request carries it. -/
structure Abandoned (tag : Nat) (s : State) : Prop where
  issued : tag < s.nextTag
  notPending : ∀ p, s.pend = some p → p.tag ≠ tag

section
variable {tag : Nat} {s t : State}

/-- A new request takes the next number, which has not been given out. -/
theorem abandoned_issue (h : tag < s.nextTag) (r : Request) (ph : Phase) : Abandoned tag (issue r ph s) where
  issued := Nat.lt_succ_of_lt h
  notPending p hp := by
    cases hp
    exact h.ne'

theorem abandoned_complete (h : tag < s.nextTag) (e : ErrCode) : Abandoned tag (complete e s) := ⟨h, nofun⟩

theorem abandoned_startOf (h : tag < s.nextTag) (i : Instr) : Abandoned tag (startOf i s) := by
  cases i with
  | crcCheck value crc => exact abandoned_complete (by exact h) .ok
  | _ => exact abandoned_issue (by exact h) _ _

theorem Answered.abandoned {u : State} (ha : Answered u t) (h : tag < u.nextTag) : Abandoned tag t := by
  cases ha <;> rename_i ht <;> subst ht
  case configured | installed | readCommanded | resolutionMerged | triggered => exact abandoned_issue (by exact h) _ _
  all_goals exact abandoned_complete (by exact h) _

theorem Abandoned.step (h : Abandoned tag s) (hs : step s = .next t) : Abandoned tag t := by
  cases step_kind hs with
  | quiet hr ha hq => exact ⟨hq.nextTag ▸ h.issued, hq.pend ▸ h.notPending⟩
  | refused v rest e h' hb hd ht => subst ht; exact abandoned_complete (s := accept v (withInputs rest s)) h.issued e
  | started v i rest h' hb hd hg ht => subst ht; exact abandoned_startOf (s := accept v (withInputs rest s)) h.issued i
  | answered p code rx rest hp h' hc ha => exact ha.abandoned h.issued
  | waited p rest hp h' o ph ht =>
    subst ht
    exact abandoned_issue (s := clearPend (withInputs rest s)) h.issued _ _
  | reset rest h' ht => subst ht; exact ⟨h.issued, nofun⟩

/-- Reset abandons the pending request. -/
theorem abandoned_of_reset {p : Pending} {rest : List Event} (hi : s.Inv) (hp : s.pend = some p)
    (h : s.inputs = .reset :: rest) (hs : step s = .next t) : Abandoned p.tag t := by
  rw [reset_eq hs h]
  exact ⟨hi.tagIssued p hp, nofun⟩

end

/-! ### Waiting without an answer (R355) -/

/-- While BUSY, an event that is no reset and no answer to the pending request leaves the operation alone. -/
theorem quiet_of_silent {s t : State} {p : Pending} (hb : s.busy = true) (hp : s.pend = some p)
    (hsilent : ∀ e ∈ s.inputs, e.silentFor p = true) (hs : step s = .next t) : Quiet s t := by
  cases step_kind hs with
  | quiet hr ha h => exact h
  | refused v rest e h hb' hd ht => exact absurd (hb.symm.trans hb') nofun
  | started v i rest h hb' hd hg ht => exact absurd (hb.symm.trans hb') nofun
  | answered q code rx rest hq h hc ha =>
    cases hp.symm.trans hq
    simp [h, Event.silentFor] at hsilent
  | waited q rest hq h o ph ht =>
    cases hp.symm.trans hq
    simp [h, Event.silentFor] at hsilent
  | reset rest h ht => simp [h, Event.silentFor] at hsilent

/-- In `u` the operation of `s` still waits for the answer to `p`, and nothing to come ends that. -/
structure StillWaits (s : State) (p : Pending) (u : State) : Prop where
  phase : u.phase = s.phase
  pend : u.pend = some p
  cmdl : u.cmdl = s.cmdl
  initDone : u.initDone = s.initDone
  silent : ∀ e ∈ u.inputs, e.silentFor p = true

theorem StillWaits.step {s u v : State} {p : Pending} (hb : s.busy = true) (h : StillWaits s p u)
    (hs : step u = .next v) : StillWaits s p v := by
  have hq : Quiet u v := quiet_of_silent ((busy_of_phase h.phase).trans hb) h.pend h.silent hs
  refine ⟨hq.phase.trans h.phase, hq.pend.trans h.pend, hq.cmdl.trans h.cmdl, hq.initDone.trans h.initDone, ?_⟩
  rw [step_inputs hs]
  exact fun e he => h.silent e (List.mem_of_mem_tail he)

/-! ### Reset (R340) -/

theorem registerWord_resetInput (s : State) (off : Nat) :
    registerWord (resetInput s) off = registerWord State.reset off := by
  unfold registerWord
  split <;> rfl

theorem registerWord_reset : ∀ off < 0x20, off % 4 = 0 → registerWord State.reset off = some 0#32 := by decide

end Sys2Proof.Machine

open Sys2Proof Sys2Proof.Machine

/-- Settles O43: with no request pending, only a CMD write or a reset does more than a host write of CFG or STATUS, a host
read or a discarded answer. -/
theorem idleSequencerChangesNothingByItself : Obligations.IdleSequencerChangesNothingByItself := by
  intro s t _ hpend hs hcmd hreset
  cases step_shape hs with
  | writeCfg v rest h ht => subst ht; exact ⟨rfl, fun _ => ⟨rfl, rfl⟩, fun hcfg => absurd h (hcfg v rest)⟩
  | writeStatus v rest h ht => subst ht; exact ⟨rfl, fun hstatus => absurd h (hstatus v rest), fun _ => rfl⟩
  | waits h ht => subst ht; exact ⟨rfl, fun _ => ⟨rfl, rfl⟩, fun _ => rfl⟩
  | hostRead off w rest h hoff hw ht => subst ht; exact ⟨rfl, fun _ => ⟨rfl, rfl⟩, fun _ => rfl⟩
  | ignored off v rest h hoff ht => subst ht; exact ⟨rfl, fun _ => ⟨rfl, rfl⟩, fun _ => rfl⟩
  | discarded e rest h he ht => subst ht; exact ⟨rfl, fun _ => ⟨rfl, rfl⟩, fun _ => rfl⟩
  | dropped v rest h hb ht => exact absurd h (hcmd v rest)
  | reserved v r rest h hb hd ht => exact absurd h (hcmd v rest)
  | gated v i rest h hb hd hg hi ht => exact absurd h (hcmd v rest)
  | started v i rest h hb hd hg ht => exact absurd h (hcmd v rest)
  | transport p code rx rest hp h hd hc => exact absurd (hpend.symm.trans hp) nofun
  | elapsed p rest hp h hd hc => exact absurd (hpend.symm.trans hp) nofun
  | reset rest h ht => exact absurd h (hreset rest)

/-- Settles O52: reset leaves the request's number given out and not pending, every step keeps it so, and the answer to a
number that is not pending is discarded. -/
theorem abandonedRequestIsNeverAnswered : Obligations.AbandonedRequestIsNeverAnswered := by
  intro s p rest n t hi hp h hrun e later he hin
  obtain ⟨u, hs, hrun⟩ := run_succ hrun
  have ht : Abandoned p.tag t := run_preserves Abandoned.step (abandoned_of_reset hi hp h hs) hrun
  exact onlyTheOwnersAnswerIsTaken.1 t p.tag e later hin he ht.notPending

/-- Settles O55: each step of a silent schedule leaves the operation waiting. -/
theorem withoutAnAnswerTheOperationHangs : Obligations.WithoutAnAnswerTheOperationHangs := by
  intro s p hi hp hsilent n t hrun
  have hb := busy_of_pending hi hp
  have ht : StillWaits s p t := run_preserves (StillWaits.step hb) ⟨rfl, hp, rfl, rfl, hsilent⟩ hrun
  exact ⟨ht.phase, ht.pend, ht.cmdl, ht.initDone, (busy_of_phase ht.phase).trans hb⟩

/-- Settles O51: the reset step is `resetInput`, and a CMD write while IDLE latches its word whatever the word is. -/
theorem resetZeroesEverything : Obligations.ResetZeroesEverything := by
  refine ⟨fun s rest h => ?_, fun s t v rest h hb hs => ?_⟩
  · refine ⟨resetInput (withInputs rest s), step_cons h, fun off h4 hle => ?_, ?_⟩
    · rw [registerWord_resetInput, registerWord_reset off (by omega) h4]
    · exact ⟨rfl, rfl, rfl, rfl, rfl, rfl, rfl, rfl, rfl, rfl, rfl, rfl, rfl, rfl, rfl, rfl, rfl, rfl, rfl, rfl⟩
  · obtain ⟨hlast, hcmdl⟩ := (acceptedWordIsLatchedAndLastOpFollows s t hs).1 v rest h hb
    refine ⟨hcmdl, hlast, ?_⟩
    rcases accepted_cases hs h hb with ⟨⟨e, rfl⟩, -⟩ | ⟨i, -, rfl⟩
    · rfl
    · exact startOf_cfg i (accept v (withInputs rest s))
end
